-- ==== Sys2Proof/Word.lean ====
section
/-! DEFINITION. The words of the machine and the index types its fields select with.

Every value of the machine is unsigned (spec R7): a `BitVec` where the spec speaks of bits, a bounded
index where it speaks of a number that selects one of a fixed set. -/

namespace Sys2Proof

/-- A general register, a timer, a memory byte (R21, R25, R26, R28). -/
abbrev Byte := BitVec 8

/-- `I`, `PC`, a return address, an instruction word (R23, R24, R27, R90). -/
abbrev Word := BitVec 16

/-- A register number, the value of an `X` or `Y` field: 0 to 15 (R91). -/
abbrev Reg := Fin 16

/-- A key number: 0x0 to 0xF (R30). -/
abbrev Key := Fin 16

/-- A column of the display: 0 to 63 (R29). -/
abbrev Column := Fin 64

/-- A row of the display: 0 to 31 (R29). -/
abbrev Row := Fin 32

/-- The display: `fb[x][y]` is the pixel of column `x` and row `y`, `true` when set (R29). -/
abbrev Framebuffer := Vector (Vector Bool 32) 64

/-- The nibble that holds a register number in an instruction word (R91). -/
abbrev nibble (x : Fin 16) : BitVec 4 := BitVec.ofFin x

/-- `VF`, the flag register (R22). -/
abbrev vf : Reg := 15

end Sys2Proof
end

