-- ==== Sys2Proof/Config.lean ====
section
/-! DEFINITION. What the spec fixes once for the machine (00_scope.md R5), the parameters it leaves open, and
the free random bytes.

A value R5 marks "fixed" is a constant here. A value it marks "parameter" is a field of `Params`, which a
state carries unchanged, so that a claim over every state is a claim for every value of the parameter. -/

namespace Sys2Proof

/-- `MEM_SIZE`: bytes of memory (R5, R60). -/
abbrev Config.memSize : Nat := 4096

/-- `ENTRY`: `PC` after reset, and the load address of the program (R5, R302). -/
abbrev Config.entry : Nat := 0x200

/-- `MAX_PROG`: the largest program image the loader copies (R5, R303). -/
abbrev Config.maxProgram : Nat := 3584

/-- The parameters of R5. `memInit` gives the bytes of `MEM_INIT` as cells; an address it does not name holds
the byte that an unlisted address reads as (log entry 2). -/
structure Params where
  /-- `STACK_CAPACITY`: how many return addresses the call stack holds, at least 1 (D1). -/
  stackCapacity : Nat
  /-- `MAG`: the magnification factor of the physical view, at least 1 (D12). -/
  mag : Nat
  /-- `FONT`: the bytes at 0x000 to 0x04F after reset (D11). -/
  font : Vector Byte 80
  /-- `MEM_INIT`: the bytes of memory after reset that are neither font nor program (D11). -/
  memInit : List Host.Cell
  /-- `FB_INIT`: the display after reset (D13). -/
  fbInit : Framebuffer
deriving DecidableEq, Repr

/-- A display with every pixel unset. -/
def Config.blankDisplay : Framebuffer := Vector.replicate 64 (Vector.replicate 32 false)

/-- The parameters `State.reset` carries. The capacity is R5's default; the spec gives the others no value
(DESIGN CHOICE, log entries 1, 2, 3). -/
def Config.defaults : Params where
  stackCapacity := 16
  mag := 1
  font := Vector.replicate 80 0
  memInit := []
  fbInit := Config.blankDisplay

/-- The free random bytes: the `n`-th byte that `random_byte()` gives when the host has supplied none
(R33, R199, D10). No body, so no proof can use a value of it (log entry 5). -/
opaque Config.randomByte : Nat → Byte

end Sys2Proof
end

