-- ==== Sys2Proof/Syntax.lean ====
section
/-! DEFINITION. The instruction set: one constructor per row of the opcode map (30_encoding.md R94), in its
order, each named after its pattern, which is the instruction's name in the spec (R99).

`x` and `y` are register numbers, `nn` and `nnn` immediates as the word holds them, `n` a count of sprite
rows (R93). -/

namespace Sys2Proof

/-- The 32 instructions (R94). -/
inductive Instr where
  | op00E0
  | op00EE
  | op1NNN (nnn : BitVec 12)
  | op2NNN (nnn : BitVec 12)
  | op3XNN (x : Reg) (nn : Byte)
  | op4XNN (x : Reg) (nn : Byte)
  | op5XY0 (x y : Reg)
  | op6XNN (x : Reg) (nn : Byte)
  | op7XNN (x : Reg) (nn : Byte)
  | op8XY0 (x y : Reg)
  | op8XY1 (x y : Reg)
  | op8XY2 (x y : Reg)
  | op8XY3 (x y : Reg)
  | op8XY4 (x y : Reg)
  | op8XY5 (x y : Reg)
  | op8XY6 (x y : Reg)
  | op9XY0 (x y : Reg)
  | opANNN (nnn : BitVec 12)
  | opBNNN (nnn : BitVec 12)
  | opCXNN (x : Reg) (nn : Byte)
  | opDXYN (x y : Reg) (n : Nat)
  | opEX9E (x : Reg)
  | opEXA1 (x : Reg)
  | opFX07 (x : Reg)
  | opFX0A (x : Reg)
  | opFX15 (x : Reg)
  | opFX18 (x : Reg)
  | opFX1E (x : Reg)
  | opFX29 (x : Reg)
  | opFX33 (x : Reg)
  | opFX55 (x : Reg)
  | opFX65 (x : Reg)
deriving DecidableEq, Repr

end Sys2Proof
end

