-- ==== Sys2Proof/WellFormed.lean ====
section
/-! DEFINITION. What an instruction and the machine's parameters must satisfy beyond their types. -/

namespace Sys2Proof

/-- An instruction the encoding can hold: register numbers and immediates fit their fields by their types,
and the row count of `DXYN` is a 4-bit number, 0 to 15 (R91, R93). -/
def Instr.wf : Instr → Bool
  | .opDXYN _ _ n => n < 16
  | .op00E0 | .op00EE | .op1NNN _ | .op2NNN _ | .op3XNN _ _ | .op4XNN _ _ | .op5XY0 _ _ | .op6XNN _ _
  | .op7XNN _ _ | .op8XY0 _ _ | .op8XY1 _ _ | .op8XY2 _ _ | .op8XY3 _ _ | .op8XY4 _ _ | .op8XY5 _ _
  | .op8XY6 _ _ | .op9XY0 _ _ | .opANNN _ | .opBNNN _ | .opCXNN _ _ | .opEX9E _ | .opEXA1 _
  | .opFX07 _ | .opFX0A _ | .opFX15 _ | .opFX18 _ | .opFX1E _ | .opFX29 _ | .opFX33 _ | .opFX55 _
  | .opFX65 _ => true

/-- Parameters R5 admits: `STACK_CAPACITY` and `MAG` are at least 1, and `MEM_INIT` names addresses of memory
only. -/
def Params.wf (p : Params) : Bool :=
  decide (1 ≤ p.stackCapacity) && decide (1 ≤ p.mag) && p.memInit.all fun c => decide (c.1 < Config.memSize)

end Sys2Proof
end

