-- ==== Sys2Proof/Decode.lean ====
section
/-! DEFINITION. The decoder, the encoder and the opcode table (30_encoding.md).

`decodeWord` follows the procedure of R95, `decode` reads bytes as they stand in memory (R64, R90), `encode`
lays the fields out as R91 and R92 say. -/

namespace Sys2Proof

/-! ### Fields of an instruction word (R91) -/

/-- `OP`, bits 15..12: the opcode family. -/
def opField (w : Word) : BitVec 4 := w.extractLsb' 12 4

/-- `X`, bits 11..8. -/
def xField (w : Word) : Reg := (w.extractLsb' 8 4).toFin

/-- `Y`, bits 7..4. -/
def yField (w : Word) : Reg := (w.extractLsb' 4 4).toFin

/-- `N`, bits 3..0. -/
def nField (w : Word) : BitVec 4 := w.extractLsb' 0 4

/-- `NN`, bits 7..0. -/
def nnField (w : Word) : Byte := w.extractLsb' 0 8

/-- `NNN`, bits 11..0. -/
def nnnField (w : Word) : BitVec 12 := w.extractLsb' 0 12

/-! ### The decoder -/

/-- Family 0: the whole word selects `00E0` or `00EE` (R95). -/
def decodeFamily0 (w : Word) : Option Instr :=
  if w = 0x00E0 then some .op00E0
  else if w = 0x00EE then some .op00EE
  else none

/-- Families 5 and 9: the low nibble must be 0 (R95). -/
def decodeLowZero (w : Word) (i : Instr) : Option Instr :=
  if nField w = 0 then some i else none

/-- Family 8: the low nibble selects one of seven (R95). -/
def decodeFamily8 (w : Word) : Option Instr :=
  match (nField w).toNat with
  | 0 => some (.op8XY0 (xField w) (yField w))
  | 1 => some (.op8XY1 (xField w) (yField w))
  | 2 => some (.op8XY2 (xField w) (yField w))
  | 3 => some (.op8XY3 (xField w) (yField w))
  | 4 => some (.op8XY4 (xField w) (yField w))
  | 5 => some (.op8XY5 (xField w) (yField w))
  | 6 => some (.op8XY6 (xField w) (yField w))
  | _ => none

/-- Family E: the low byte selects one of two (R95). -/
def decodeFamilyE (w : Word) : Option Instr :=
  if nnField w = 0x9E then some (.opEX9E (xField w))
  else if nnField w = 0xA1 then some (.opEXA1 (xField w))
  else none

/-- Family F: the low byte selects one of nine (R95). -/
def decodeFamilyF (w : Word) : Option Instr :=
  if nnField w = 0x07 then some (.opFX07 (xField w))
  else if nnField w = 0x0A then some (.opFX0A (xField w))
  else if nnField w = 0x15 then some (.opFX15 (xField w))
  else if nnField w = 0x18 then some (.opFX18 (xField w))
  else if nnField w = 0x1E then some (.opFX1E (xField w))
  else if nnField w = 0x29 then some (.opFX29 (xField w))
  else if nnField w = 0x33 then some (.opFX33 (xField w))
  else if nnField w = 0x55 then some (.opFX55 (xField w))
  else if nnField w = 0x65 then some (.opFX65 (xField w))
  else none

/-- The instruction a word is, or `none` for an unmatched word (R95, R96, R123). Every literal digit of a
pattern is matched exactly (D9, log entry 15). -/
def decodeWord (w : Word) : Option Instr :=
  match (opField w).toNat with
  | 0x0 => decodeFamily0 w
  | 0x1 => some (.op1NNN (nnnField w))
  | 0x2 => some (.op2NNN (nnnField w))
  | 0x3 => some (.op3XNN (xField w) (nnField w))
  | 0x4 => some (.op4XNN (xField w) (nnField w))
  | 0x5 => decodeLowZero w (.op5XY0 (xField w) (yField w))
  | 0x6 => some (.op6XNN (xField w) (nnField w))
  | 0x7 => some (.op7XNN (xField w) (nnField w))
  | 0x8 => decodeFamily8 w
  | 0x9 => decodeLowZero w (.op9XY0 (xField w) (yField w))
  | 0xA => some (.opANNN (nnnField w))
  | 0xB => some (.opBNNN (nnnField w))
  | 0xC => some (.opCXNN (xField w) (nnField w))
  | 0xD => some (.opDXYN (xField w) (yField w) (nField w).toNat)
  | 0xE => decodeFamilyE w
  | _ => decodeFamilyF w

/-- What decoding a list of bytes gives. -/
inductive DecodeResult where
  /-- an instruction, and the bytes after it -/
  | instr (i : Instr) (rest : List Byte)
  /-- the first two bytes are a word that matches no row (R96) -/
  | unknownOpcode (w : Word)
  /-- fewer than two bytes: no instruction word is there (R90) -/
  | truncated
deriving DecidableEq, Repr

/-- The word two bytes hold, the first in bits 15..8 (R62, R64). -/
def wordOfBytes (hi lo : Byte) : Word := hi ++ lo

/-- Decode the bytes at the head of a list, as they stand in memory (R64, R90). -/
def decode : List Byte → DecodeResult
  | hi :: lo :: rest =>
    match decodeWord (wordOfBytes hi lo) with
    | some i => .instr i rest
    | none => .unknownOpcode (wordOfBytes hi lo)
  | _ => .truncated

/-! ### The encoder -/

/-- The word of an instruction (R91, R92, R94). -/
def encode : Instr → Word
  | .op00E0 => 0x00E0#16
  | .op00EE => 0x00EE#16
  | .op1NNN nnn => 0x1#4 ++ nnn
  | .op2NNN nnn => 0x2#4 ++ nnn
  | .op3XNN x nn => 0x3#4 ++ nibble x ++ nn
  | .op4XNN x nn => 0x4#4 ++ nibble x ++ nn
  | .op5XY0 x y => 0x5#4 ++ nibble x ++ nibble y ++ 0x0#4
  | .op6XNN x nn => 0x6#4 ++ nibble x ++ nn
  | .op7XNN x nn => 0x7#4 ++ nibble x ++ nn
  | .op8XY0 x y => 0x8#4 ++ nibble x ++ nibble y ++ 0x0#4
  | .op8XY1 x y => 0x8#4 ++ nibble x ++ nibble y ++ 0x1#4
  | .op8XY2 x y => 0x8#4 ++ nibble x ++ nibble y ++ 0x2#4
  | .op8XY3 x y => 0x8#4 ++ nibble x ++ nibble y ++ 0x3#4
  | .op8XY4 x y => 0x8#4 ++ nibble x ++ nibble y ++ 0x4#4
  | .op8XY5 x y => 0x8#4 ++ nibble x ++ nibble y ++ 0x5#4
  | .op8XY6 x y => 0x8#4 ++ nibble x ++ nibble y ++ 0x6#4
  | .op9XY0 x y => 0x9#4 ++ nibble x ++ nibble y ++ 0x0#4
  | .opANNN nnn => 0xA#4 ++ nnn
  | .opBNNN nnn => 0xB#4 ++ nnn
  | .opCXNN x nn => 0xC#4 ++ nibble x ++ nn
  | .opDXYN x y n => 0xD#4 ++ nibble x ++ nibble y ++ BitVec.ofNat 4 n
  | .opEX9E x => 0xE#4 ++ nibble x ++ 0x9E#8
  | .opEXA1 x => 0xE#4 ++ nibble x ++ 0xA1#8
  | .opFX07 x => 0xF#4 ++ nibble x ++ 0x07#8
  | .opFX0A x => 0xF#4 ++ nibble x ++ 0x0A#8
  | .opFX15 x => 0xF#4 ++ nibble x ++ 0x15#8
  | .opFX18 x => 0xF#4 ++ nibble x ++ 0x18#8
  | .opFX1E x => 0xF#4 ++ nibble x ++ 0x1E#8
  | .opFX29 x => 0xF#4 ++ nibble x ++ 0x29#8
  | .opFX33 x => 0xF#4 ++ nibble x ++ 0x33#8
  | .opFX55 x => 0xF#4 ++ nibble x ++ 0x55#8
  | .opFX65 x => 0xF#4 ++ nibble x ++ 0x65#8

/-- The two bytes of a word in memory order, the high byte first (R64). -/
def bytesOfWord (w : Word) : List Byte := [w.extractLsb' 8 8, w.extractLsb' 0 8]

/-- The bytes of an instruction in memory order. -/
def encodeBytes (i : Instr) : List Byte := bytesOfWord (encode i)

/-! ### The opcode table (R94) -/

/-- A row of R94: a word is the row's instruction exactly when `w &&& mask = value`. -/
structure OpcodeRow where
  pattern : String
  mask : Word
  value : Word
deriving DecidableEq, Repr

/-- The row of R94 an instruction belongs to. -/
def opcodeRow : Instr → OpcodeRow
  | .op00E0 => ⟨"00E0", 0xFFFF, 0x00E0⟩
  | .op00EE => ⟨"00EE", 0xFFFF, 0x00EE⟩
  | .op1NNN _ => ⟨"1NNN", 0xF000, 0x1000⟩
  | .op2NNN _ => ⟨"2NNN", 0xF000, 0x2000⟩
  | .op3XNN _ _ => ⟨"3XNN", 0xF000, 0x3000⟩
  | .op4XNN _ _ => ⟨"4XNN", 0xF000, 0x4000⟩
  | .op5XY0 _ _ => ⟨"5XY0", 0xF00F, 0x5000⟩
  | .op6XNN _ _ => ⟨"6XNN", 0xF000, 0x6000⟩
  | .op7XNN _ _ => ⟨"7XNN", 0xF000, 0x7000⟩
  | .op8XY0 _ _ => ⟨"8XY0", 0xF00F, 0x8000⟩
  | .op8XY1 _ _ => ⟨"8XY1", 0xF00F, 0x8001⟩
  | .op8XY2 _ _ => ⟨"8XY2", 0xF00F, 0x8002⟩
  | .op8XY3 _ _ => ⟨"8XY3", 0xF00F, 0x8003⟩
  | .op8XY4 _ _ => ⟨"8XY4", 0xF00F, 0x8004⟩
  | .op8XY5 _ _ => ⟨"8XY5", 0xF00F, 0x8005⟩
  | .op8XY6 _ _ => ⟨"8XY6", 0xF00F, 0x8006⟩
  | .op9XY0 _ _ => ⟨"9XY0", 0xF00F, 0x9000⟩
  | .opANNN _ => ⟨"ANNN", 0xF000, 0xA000⟩
  | .opBNNN _ => ⟨"BNNN", 0xF000, 0xB000⟩
  | .opCXNN _ _ => ⟨"CXNN", 0xF000, 0xC000⟩
  | .opDXYN _ _ _ => ⟨"DXYN", 0xF000, 0xD000⟩
  | .opEX9E _ => ⟨"EX9E", 0xF0FF, 0xE09E⟩
  | .opEXA1 _ => ⟨"EXA1", 0xF0FF, 0xE0A1⟩
  | .opFX07 _ => ⟨"FX07", 0xF0FF, 0xF007⟩
  | .opFX0A _ => ⟨"FX0A", 0xF0FF, 0xF00A⟩
  | .opFX15 _ => ⟨"FX15", 0xF0FF, 0xF015⟩
  | .opFX18 _ => ⟨"FX18", 0xF0FF, 0xF018⟩
  | .opFX1E _ => ⟨"FX1E", 0xF0FF, 0xF01E⟩
  | .opFX29 _ => ⟨"FX29", 0xF0FF, 0xF029⟩
  | .opFX33 _ => ⟨"FX33", 0xF0FF, 0xF033⟩
  | .opFX55 _ => ⟨"FX55", 0xF0FF, 0xF055⟩
  | .opFX65 _ => ⟨"FX65", 0xF0FF, 0xF065⟩

/-- The opcode map, in the order of R94. -/
def opcodeTable : List OpcodeRow :=
  [.op00E0, .op00EE, .op1NNN 0, .op2NNN 0, .op3XNN 0 0, .op4XNN 0 0, .op5XY0 0 0, .op6XNN 0 0,
   .op7XNN 0 0, .op8XY0 0 0, .op8XY1 0 0, .op8XY2 0 0, .op8XY3 0 0, .op8XY4 0 0, .op8XY5 0 0,
   .op8XY6 0 0, .op9XY0 0 0, .opANNN 0, .opBNNN 0, .opCXNN 0 0, .opDXYN 0 0 0, .opEX9E 0, .opEXA1 0,
   .opFX07 0, .opFX0A 0, .opFX15 0, .opFX18 0, .opFX1E 0, .opFX29 0, .opFX33 0, .opFX55 0,
   .opFX65 0].map opcodeRow

/-! ### The host's question -/

/-- The bytes an instruction of `nbits` bits with value `w` has in memory: bit 0 of `w` is the least
significant bit of the one 16-bit word, and bits above `nbits` are 0. -/
def tableWordBytes (nbits w : Nat) : List Byte :=
  bytesOfWord (BitVec.ofNat 16 (w % 2 ^ nbits))

/-- The instruction the decoder reads from a word numbered as spec/opcode_table.json numbers it. -/
def decodeTableWord (nbits w : Nat) : Option Instr :=
  match decode (tableWordBytes nbits w) with
  | .instr i _ => some i
  | .unknownOpcode _ => none
  | .truncated => none

end Sys2Proof
end

