-- ==== Sys2Proof/Machine/State.lean ====
section
/-! DEFINITION. The state of the machine (10_state.md R20), why a step can stop, and the state after reset.

The elements are R20's, under the spec's names. Three fields are the model's own: the parameters of R5 that
every state carries unchanged, and the random bytes `CXNN` takes (log entries 1 and 5). -/

namespace Sys2Proof.Machine

/-- `MEM` (R28), in one canonical form: cells in strictly rising address order, none holding what an unlisted
address reads as. `Memory.wf` says the form holds. -/
structure Memory where
  cells : List Host.Cell
deriving DecidableEq, Repr

/-- The two fatal errors that `ERR` can latch (R32). -/
inductive FatalError where
  /-- `00EE` with an empty stack (R262) -/
  | stackUnderflow
  /-- `2NNN` with the stack at capacity (R263) -/
  | stackOverflow
deriving DecidableEq, Repr

/-- The result of a step, an output for the host and no state (R125, R260). -/
inductive StepResult where
  /-- the step raised nothing -/
  | ok
  /-- the word fetched matches no row; the machine runs on (R126, R261) -/
  | unknownOpcode (w : Word)
  /-- `00EE` found the stack empty (R262) -/
  | stackUnderflow
  /-- `2NNN` found the stack at capacity (R263) -/
  | stackOverflow
  /-- never raised (R264) -/
  | outOfBounds
  /-- a step requested while a fatal error is latched (R130) -/
  | halted (e : FatalError)
deriving DecidableEq, Repr

/-- Why a step could stop with a fault. No step does (R129): the spec's errors are results of steps that
complete. -/
inductive Fault where
  /-- The error kind R260 lists and R264 says is never raised: no meaning raises it. Safe. -/
  | outOfBounds
deriving DecidableEq, Repr

/-- Why an instruction could be refused. No instruction is. -/
inductive Refusal where
  /-- An instruction with no meaning yet, by its mnemonic: raised by an arm of `exec` only, and no arm raises
  it. Safe. -/
  | notModelled (mnemonic : String)
deriving DecidableEq, Repr

/-- The state of the machine. -/
structure State where
  /-- `V[0..15]` (R21, R22) -/
  v : Vector Byte 16
  /-- `I` (R23) -/
  i : Word
  /-- `PC` (R24) -/
  pc : Word
  /-- `DT` (R25) -/
  dt : Byte
  /-- `ST` (R26) -/
  st : Byte
  /-- the live entries of `STACK`, the most recent first; `SP` is its length (R27) -/
  stack : List Word
  /-- `MEM` (R28) -/
  mem : Memory
  /-- `FB` (R29) -/
  fb : Framebuffer
  /-- `KEYS` (R30) -/
  keys : Vector Bool 16
  /-- `REDRAW` (R31) -/
  redraw : Bool
  /-- `ERR`: `none` is the spec's `None`, the machine running (R32) -/
  err : Option FatalError
  /-- the model's own: random bytes the host has supplied for coming `CXNN` steps, oldest first (R33) -/
  rndIn : List Byte
  /-- the model's own: how many bytes of `Config.randomByte` have been taken (R33) -/
  rndCount : Nat
  /-- the model's own: the parameters of R5, which no event changes (R34) -/
  params : Params
deriving DecidableEq, Repr

/-- The machine right after a reset with an empty program (R38). Registers, timers, stack, `REDRAW` and `ERR`
have the values the spec gives; memory, display, keys and the parameters have the values log entries 1 to 5
name (DESIGN CHOICE). -/
def State.reset : State where
  v := Vector.replicate 16 0
  i := 0
  pc := 0x200
  dt := 0
  st := 0
  stack := []
  mem := ⟨[]⟩
  fb := Config.blankDisplay
  keys := Vector.replicate 16 false
  redraw := false
  err := none
  rndIn := []
  rndCount := 0
  params := Config.defaults

end Sys2Proof.Machine
end

