-- ==== Sys2Proof/Machine/Ops.lean ====
section
/-! DEFINITION. The named operations over memory, registers, the call stack and the error latch.

Every read and write of an element goes through one of these. -/

namespace Sys2Proof.Machine

/-! ### Memory (20_memory.md) -/

/-- The effective address of an access: `ea(a) = a mod 4096` (R61). -/
def ea (a : Nat) : Nat := a % Config.memSize

/-- What an address that memory does not list reads as (DESIGN CHOICE, log entry 2: the spec leaves
`MEM_INIT` open). -/
def unlistedByte (_a : Nat) : Byte := 0

/-- The first byte a list of cells gives an address. -/
def lookupCell (a : Nat) : List Host.Cell → Byte
  | [] => unlistedByte a
  | (a', b) :: cs => if a = a' then b else lookupCell a cs

/-- A cell put in its place in a list of rising addresses. -/
def insertCell (c : Host.Cell) : List Host.Cell → List Host.Cell
  | [] => [c]
  | d :: ds => if c.1 < d.1 then c :: d :: ds else d :: insertCell c ds

/-- The cells without those of one address. -/
def dropCell (a : Nat) (cs : List Host.Cell) : List Host.Cell :=
  cs.filter fun c => decide (c.1 ≠ a)

/-- `MemRead(addr, 1)` (R62). -/
def Memory.read (m : Memory) (a : Nat) : Byte := lookupCell (ea a) m.cells

/-- `MemWrite(addr, 1, v)` (R63). Writing what an unlisted address reads as removes the entry. -/
def Memory.write (m : Memory) (a : Nat) (b : Byte) : Memory :=
  if b = unlistedByte (ea a) then ⟨dropCell (ea a) m.cells⟩
  else ⟨insertCell (ea a, b) (dropCell (ea a) m.cells)⟩

/-- Bytes written at ascending addresses, one after another (R64, R66). -/
def Memory.writeBytes (m : Memory) (a : Nat) : List Byte → Memory
  | [] => m
  | b :: bs => (m.write a b).writeBytes (a + 1) bs

/-- `MemRead(addr, 2)`: the byte at the lower address in bits 15..8 (R62). -/
def Memory.readWord (m : Memory) (a : Nat) : Word := wordOfBytes (m.read a) (m.read (a + 1))

/-- The canonical form: addresses strictly rising, inside the address space, and no entry equal to what an
unlisted address reads as. -/
abbrev Memory.wf (m : Memory) : Prop :=
  m.cells.Pairwise (fun c d => c.1 < d.1) ∧
    ∀ c ∈ m.cells, c.1 < Config.memSize ∧ c.2 ≠ unlistedByte c.1

/-- One byte of the state's memory. -/
def State.readMem (s : State) (a : Nat) : Byte := s.mem.read a

/-- Bytes stored in the state's memory at ascending addresses from `a`. -/
def State.storeBytes (s : State) (a : Nat) (bs : List Byte) : State :=
  { s with mem := s.mem.writeBytes a bs }

/-! ### Registers (R21 to R26) -/

/-- `V[x]`. -/
def State.readV (s : State) (x : Reg) : Byte := s.v[x.val]

/-- `V[x] <- b`. No register is hard-wired (R21). -/
def State.writeV (s : State) (x : Reg) (b : Byte) : State := { s with v := s.v.set x.val b }

/-- `V[0..15]` all written at once. -/
def State.setRegs (s : State) (v : Vector Byte 16) : State := { s with v := v }

/-- `I <- a`. -/
def State.setI (s : State) (a : Word) : State := { s with i := a }

/-- `PC <- a`. -/
def State.setPc (s : State) (a : Word) : State := { s with pc := a }

/-- `DT <- b`. -/
def State.setDt (s : State) (b : Byte) : State := { s with dt := b }

/-- `ST <- b`. -/
def State.setSt (s : State) (b : Byte) : State := { s with st := b }

/-! ### The call stack (R27) -/

/-- `SP`: how many return addresses the stack holds. -/
def State.sp (s : State) : Nat := s.stack.length

/-- `STACK[j]` for a live entry: `STACK[0]` is the oldest. -/
def State.stackEntry (s : State) (j : Nat) : Option Word := s.stack.reverse[j]?

/-- The stack's entries replaced. -/
def State.setStack (s : State) (l : List Word) : State := { s with stack := l }

/-- The stack holds `STACK_CAPACITY` entries (R162). -/
def State.stackFull (s : State) : Bool := decide (s.sp = s.params.stackCapacity)

/-! ### Display, keys and the redraw flag (R29, R30, R31) -/

/-- `FB[x][y]`. -/
def State.pixel (s : State) (x : Column) (y : Row) : Bool := s.fb[x.val][y.val]

/-- `FB` replaced. -/
def State.setFb (s : State) (fb : Framebuffer) : State := { s with fb := fb }

/-- `KEYS[k]`. -/
def State.key (s : State) (k : Key) : Bool := s.keys[k.val]

/-- `KEYS[k] <- b`, a move of the host's only (R275). -/
def State.writeKey (s : State) (k : Key) (b : Bool) : State := { s with keys := s.keys.set k.val b }

/-- `REDRAW <- b`. -/
def State.setRedraw (s : State) (b : Bool) : State := { s with redraw := b }

/-! ### The random byte (R33, R127) -/

/-- `RND`: the byte the host has supplied, or else a free value (log entry 5). -/
def State.rnd (s : State) : Byte :=
  match s.rndIn with
  | b :: _ => b
  | [] => Config.randomByte s.rndCount

/-- The state once its `RND` has been taken: the next `CXNN` takes another (R199). -/
def State.takeRnd (s : State) : State :=
  match s.rndIn with
  | _ :: bs => { s with rndIn := bs }
  | [] => { s with rndCount := s.rndCount + 1 }

/-! ### The step's common parts (40_step_cycle.md) -/

/-- The word at `PC` (R121). -/
def State.fetchWord (s : State) : Word := s.mem.readWord s.pc.toNat

/-- The advance before anything else: `PC <- (PC0 + 2) mod 65536` (R122). -/
def State.advancePc (s : State) : State := s.setPc (s.pc + 2)

/-- `PC <- (PC - 2) mod 65536`, back to `PC0` (R243). -/
def State.rewindPc (s : State) : State := s.setPc (s.pc - 2)

/-- A skip: a further 2 when the condition holds (R184). -/
def State.skipIf (s : State) (c : Bool) : State := if c then s.setPc (s.pc + 2) else s

/-! ### Errors (60_exceptions.md)

There is no handler, no saved register and no return from an error (R268, R269): only `Reset` clears `ERR`. -/

/-- `ERR <- e`. -/
def State.setErr (s : State) (e : Option FatalError) : State := { s with err := e }

/-- Taking a fatal error: the erring instruction writes nothing of its own, the advance of `PC` stands and
`ERR` latches the kind (R32, R262, R263, R268). The one entry for every instruction that raises. -/
def raiseFatal (e : FatalError) (s : State) : Host.Outcome State Fault Refusal :=
  .next (s.setErr (some e))

/-- An unmatched word, `PC` already advanced: no further change, `ERR` untouched, and the machine runs on
(R126, R261). -/
def raiseUnknownOpcode (_w : Word) (s : State) : Host.Outcome State Fault Refusal := .next s

/-- A step requested while `ERR` is set: nothing changes, not even `PC` (R130). -/
def haltedStep (_e : FatalError) (s : State) : Host.Outcome State Fault Refusal := .next s

/-! ### Placing an instruction where the next step fetches it -/

/-- The bytes of a word stored at `PC`, with no error latched, so that the next step fetches that word
(R121). -/
def State.placeAtPc (s : State) (bs : List Byte) : State :=
  (s.storeBytes s.pc.toNat bs).setErr none

end Sys2Proof.Machine
end

