-- ==== Sys2Proof/Machine/Operands.lean ====
section
/-! DEFINITION. The operand forms: widened immediates and registers, indices that wrap, and the bytes an
instruction moves between registers and memory (R93, R140, R227, R246). -/

namespace Sys2Proof.Machine

/-- `zext_16` of a 12-bit immediate (R93). -/
def zextAddr (nnn : BitVec 12) : Word := nnn.setWidth 16

/-- `zext_16` of a byte (R163, R221, R222). -/
def zextByte (b : Byte) : Word := b.setWidth 16

/-- The key `V[X]` selects: its low 4 bits, `V[X] mod 16` (R246, D8). -/
def keyIndex (b : Byte) : Key := ⟨b.toNat % 16, Nat.mod_lt _ (by decide)⟩

/-- A column number, wrapped on the 64-wide axis (R140). -/
def wrapColumn (a : Nat) : Column := ⟨a % 64, Nat.mod_lt _ (by decide)⟩

/-- A row number, wrapped on the 32-high axis (R140). -/
def wrapRow (a : Nat) : Row := ⟨a % 32, Nat.mod_lt _ (by decide)⟩

/-- The base address of an access through `I` (R227). -/
def State.base (s : State) : Nat := s.i.toNat

/-- `V[0] .. V[x]`, in order (R224). -/
def State.regsUpTo (s : State) (x : Reg) : List Byte := s.v.toList.take (x.val + 1)

/-- The registers with `V[0] .. V[x]` taken from memory at `a, a + 1, ..` (R225). -/
def State.regsFromMem (s : State) (x : Reg) (a : Nat) : Vector Byte 16 :=
  Vector.ofFn fun k : Reg => if k ≤ x then s.readMem (a + k.val) else s.readV k

/-- `I` moved past the bytes `FX55` or `FX65` moved: `(base + X + 1) mod 65536` (R224, R225). -/
def State.bumpI (s : State) (x : Reg) : State := s.setI (s.i + BitVec.ofNat 16 (x.val + 1))

/-- The three decimal digits of a byte, most significant first (R223). -/
def decimalDigits (b : Byte) : List Byte :=
  [BitVec.ofNat 8 (b.toNat / 100), BitVec.ofNat 8 (b.toNat / 10 % 10), BitVec.ofNat 8 (b.toNat % 10)]

/-- The pressed key with the highest number: an ascending scan in which the last pressed key found wins
(R243, C1). -/
def State.lastPressed (s : State) : Option Key :=
  (List.finRange 16).foldl (fun found k => if s.key k then some k else found) none

/-- The number of a key, as a register holds it (R243). -/
def keyByte (k : Key) : Byte := BitVec.ofNat 8 k.val

end Sys2Proof.Machine
end

