-- ==== Sys2Proof/Machine/Flags.lean ====
section
/-! DEFINITION. The four values an instruction writes to `VF` as a flag (R22), each the whole byte 0x00 or
0x01. -/

namespace Sys2Proof.Machine

/-- A flag as the whole byte `VF` holds (R22). -/
def flagByte (c : Bool) : Byte := if c then 1 else 0

/-- Carry: 1 when the exact sum exceeds 255 (R196). -/
def carryFlag (a b : Byte) : Byte := flagByte (decide (255 < a.toNat + b.toNat))

/-- Not-borrow: 0 when `a < b`, else 1 (R197). -/
def notBorrowFlag (a b : Byte) : Byte := flagByte (!decide (a.toNat < b.toNat))

/-- The bit a right shift by one moves out (R198). -/
def shiftOutFlag (b : Byte) : Byte := b &&& 1

/-- Collision: 1 when some pixel went from set to unset (R142). -/
def collisionFlag (hit : Bool) : Byte := flagByte hit

/-- A flag and then a result written, in the order R128 and R201 give: the result stands when `x` is `VF`. -/
def State.writeFlagThenResult (s : State) (x : Reg) (flag result : Byte) : State :=
  (s.writeV vf flag).writeV x result

end Sys2Proof.Machine
end

