-- ==== Sys2Proof/Machine/Alu.lean ====
section
/-! DEFINITION. Register loads and arithmetic: `6XNN`, `7XNN`, `8XY0` to `8XY6`, `CXNN` (44_alu.md).

Addition and subtraction of bytes wrap modulo 256 (R200); the flags are computed from the exact values. -/

namespace Sys2Proof.Machine

/-- `6XNN`: `VX <- NN` (R190). -/
def exec6XNN (x : Reg) (nn : Byte) (s : State) : Host.Outcome State Fault Refusal :=
  .next (s.writeV x nn)

/-- `7XNN`: `VX <- (VX + NN) mod 256`, no flag (R191). -/
def exec7XNN (x : Reg) (nn : Byte) (s : State) : Host.Outcome State Fault Refusal :=
  .next (s.writeV x (s.readV x + nn))

/-- `8XY0`: `VX <- VY` (R192). -/
def exec8XY0 (x y : Reg) (s : State) : Host.Outcome State Fault Refusal :=
  .next (s.writeV x (s.readV y))

/-- `8XY1`: `VX <- VX | VY`, no flag (R193). -/
def exec8XY1 (x y : Reg) (s : State) : Host.Outcome State Fault Refusal :=
  .next (s.writeV x (s.readV x ||| s.readV y))

/-- `8XY2`: `VX <- VX & VY`, no flag (R194). -/
def exec8XY2 (x y : Reg) (s : State) : Host.Outcome State Fault Refusal :=
  .next (s.writeV x (s.readV x &&& s.readV y))

/-- `8XY3`: `VX <- VX ^ VY`, no flag (R195). -/
def exec8XY3 (x y : Reg) (s : State) : Host.Outcome State Fault Refusal :=
  .next (s.writeV x (s.readV x ^^^ s.readV y))

/-- `8XY4`: carry in `VF`, then `VX <- (VX + VY) mod 256` (R196, R201). -/
def exec8XY4 (x y : Reg) (s : State) : Host.Outcome State Fault Refusal :=
  let a := s.readV x
  let b := s.readV y
  .next (s.writeFlagThenResult x (carryFlag a b) (a + b))

/-- `8XY5`: not-borrow in `VF`, then `VX <- (VX - VY) mod 256` (R197, R201). -/
def exec8XY5 (x y : Reg) (s : State) : Host.Outcome State Fault Refusal :=
  let a := s.readV x
  let b := s.readV y
  .next (s.writeFlagThenResult x (notBorrowFlag a b) (a - b))

/-- `8XY6`: the bit shifted out of `VY` in `VF`, then `VX <- VY >> 1` (R198, R201). -/
def exec8XY6 (x y : Reg) (s : State) : Host.Outcome State Fault Refusal :=
  let b := s.readV y
  .next (s.writeFlagThenResult x (shiftOutFlag b) (b >>> 1))

/-- `CXNN`: `VX <- RND & NN`, any `RND` (R199, D10). -/
def execCXNN (x : Reg) (nn : Byte) (s : State) : Host.Outcome State Fault Refusal :=
  .next (s.takeRnd.writeV x (s.rnd &&& nn))

end Sys2Proof.Machine
end

