-- ==== Sys2Proof/Machine/Display.lean ====
section
/-! DEFINITION. The framebuffer compositor: `00E0` and `DXYN` (41_display.md). -/

namespace Sys2Proof.Machine

/-- A display being drawn on, and whether a set pixel has been cleared so far. -/
structure Drawing where
  fb : Framebuffer
  hit : Bool
deriving DecidableEq, Repr

/-- One pixel toggled; a set pixel counts as a hit (R142, R145). -/
def Drawing.toggle (d : Drawing) (x : Column) (y : Row) : Drawing where
  fb := d.fb.set x.val (d.fb[x.val].set y.val (!d.fb[x.val][y.val]))
  hit := d.hit || d.fb[x.val][y.val]

/-- Sprite bit of column `c`: bit `7 - c` of the row's byte, column 0 the most significant (R140). -/
def spriteBit (b : Byte) (c : Nat) : Bool := b.getLsbD (7 - c)

/-- One row of a sprite, columns 0 to 7 in order, its first column at `x0` (R142). -/
def Drawing.row (d : Drawing) (b : Byte) (x0 : Nat) (y : Row) : Drawing :=
  (List.range 8).foldl (fun d c => if spriteBit b c then d.toggle (wrapColumn (x0 + c)) y else d) d

/-- The rows of a sprite, 0 to `n - 1` in order, read from memory at `base, base + 1, ..` (R142). -/
def Drawing.sprite (d : Drawing) (m : Memory) (base x0 y0 n : Nat) : Drawing :=
  (List.range n).foldl (fun d r => d.row (m.read (base + r)) x0 (wrapRow (y0 + r))) d

/-- What `DXYN` draws, its operands sampled before any write (R128, R142). -/
def State.drawSprite (s : State) (x y : Reg) (n : Nat) : Drawing :=
  Drawing.sprite ⟨s.fb, false⟩ s.mem s.base (s.readV x).toNat (s.readV y).toNat n

/-- `00E0`: every pixel unset; `VF` and `REDRAW` are left alone (R141, D14). -/
def exec00E0 (s : State) : Host.Outcome State Fault Refusal :=
  .next (s.setFb Config.blankDisplay)

/-- `DXYN`: draw, then `VF <- hit`, then `REDRAW <- 1` (R142, D7). -/
def execDXYN (x y : Reg) (n : Nat) (s : State) : Host.Outcome State Fault Refusal :=
  let d := s.drawSprite x y n
  .next (((s.setFb d.fb).writeV vf (collisionFlag d.hit)).setRedraw true)

end Sys2Proof.Machine
end

