-- ==== Sys2Proof/Machine/Flow.lean ====
section
/-! DEFINITION. Control transfer and the call stack: `00EE`, `1NNN`, `2NNN`, `BNNN` (42_flow.md).

`PC` is already `PC0 + 2` when a meaning runs (R122). -/

namespace Sys2Proof.Machine

/-- `00EE`: pop into `PC`; `StackUnderflow` when the stack is empty (R160, R262). -/
def exec00EE (s : State) : Host.Outcome State Fault Refusal :=
  match s.stack with
  | [] => raiseFatal .stackUnderflow s
  | a :: rest => .next ((s.setStack rest).setPc a)

/-- `1NNN`: `PC <- NNN` (R161). -/
def exec1NNN (nnn : BitVec 12) (s : State) : Host.Outcome State Fault Refusal :=
  .next (s.setPc (zextAddr nnn))

/-- `2NNN`: push `PC`, then `PC <- NNN`; `StackOverflow`, checked first, when the stack is at capacity
(R162, R263). -/
def exec2NNN (nnn : BitVec 12) (s : State) : Host.Outcome State Fault Refusal :=
  if s.stackFull then raiseFatal .stackOverflow s
  else .next ((s.setStack (s.pc :: s.stack)).setPc (zextAddr nnn))

/-- `BNNN`: `PC <- V0 + NNN` (R163). -/
def execBNNN (nnn : BitVec 12) (s : State) : Host.Outcome State Fault Refusal :=
  .next (s.setPc (zextByte (s.readV 0) + zextAddr nnn))

end Sys2Proof.Machine
end

