-- ==== Sys2Proof/Machine/IndexMemory.lean ====
section
/-! DEFINITION. The index register and the instructions that move data between registers and memory: `ANNN`,
`FX1E`, `FX29`, `FX33`, `FX55`, `FX65` (45_index_memory.md). -/

namespace Sys2Proof.Machine

/-- `ANNN`: `I <- NNN` (R220). -/
def execANNN (nnn : BitVec 12) (s : State) : Host.Outcome State Fault Refusal :=
  .next (s.setI (zextAddr nnn))

/-- `FX1E`: `I <- (I + VX) mod 65536`, no flag (R221). -/
def execFX1E (x : Reg) (s : State) : Host.Outcome State Fault Refusal :=
  .next (s.setI (s.i + zextByte (s.readV x)))

/-- `FX29`: `I <- VX * 5`, the whole byte, no masking (R222). -/
def execFX29 (x : Reg) (s : State) : Host.Outcome State Fault Refusal :=
  .next (s.setI (zextByte (s.readV x) * 5))

/-- `FX33`: the three decimal digits of `VX` at `I, I + 1, I + 2` (R223). -/
def execFX33 (x : Reg) (s : State) : Host.Outcome State Fault Refusal :=
  .next (s.storeBytes s.base (decimalDigits (s.readV x)))

/-- `FX55`: `V0..VX` stored at `I`, then `I <- (I + X + 1) mod 65536` (R224). -/
def execFX55 (x : Reg) (s : State) : Host.Outcome State Fault Refusal :=
  .next ((s.storeBytes s.base (s.regsUpTo x)).bumpI x)

/-- `FX65`: `V0..VX` loaded from `I`, then `I <- (I + X + 1) mod 65536` (R225). -/
def execFX65 (x : Reg) (s : State) : Host.Outcome State Fault Refusal :=
  .next ((s.setRegs (s.regsFromMem x s.base)).bumpI x)

end Sys2Proof.Machine
end

