-- ==== Sys2Proof/Machine/KeypadTimers.lean ====
section
/-! DEFINITION. Keypad and timer instructions: `EX9E`, `EXA1`, `FX07`, `FX0A`, `FX15`, `FX18`
(46_keypad_timers.md). -/

namespace Sys2Proof.Machine

/-- `EX9E`: skip if the key `VX` is pressed (R240, R246). -/
def execEX9E (x : Reg) (s : State) : Host.Outcome State Fault Refusal :=
  .next (s.skipIf (s.key (keyIndex (s.readV x))))

/-- `EXA1`: skip if the key `VX` is not pressed (R241, R246). -/
def execEXA1 (x : Reg) (s : State) : Host.Outcome State Fault Refusal :=
  .next (s.skipIf (!s.key (keyIndex (s.readV x))))

/-- `FX07`: `VX <- DT` (R242). -/
def execFX07 (x : Reg) (s : State) : Host.Outcome State Fault Refusal :=
  .next (s.writeV x s.dt)

/-- `FX0A`: with no key pressed, back to `PC0`; else `VX <- ` the highest pressed key (R243). -/
def execFX0A (x : Reg) (s : State) : Host.Outcome State Fault Refusal :=
  match s.lastPressed with
  | none => .next s.rewindPc
  | some k => .next (s.writeV x (keyByte k))

/-- `FX15`: `DT <- VX` (R244). -/
def execFX15 (x : Reg) (s : State) : Host.Outcome State Fault Refusal :=
  .next (s.setDt (s.readV x))

/-- `FX18`: `ST <- VX` (R245). -/
def execFX18 (x : Reg) (s : State) : Host.Outcome State Fault Refusal :=
  .next (s.setSt (s.readV x))

end Sys2Proof.Machine
end

