-- ==== Sys2Proof/Machine/Skip.lean ====
section
/-! DEFINITION. The conditional skips `3XNN`, `4XNN`, `5XY0`, `9XY0` (43_skip.md). -/

namespace Sys2Proof.Machine

/-- `3XNN`: skip if `VX = NN` (R180). -/
def exec3XNN (x : Reg) (nn : Byte) (s : State) : Host.Outcome State Fault Refusal :=
  .next (s.skipIf (s.readV x == nn))

/-- `4XNN`: skip if `VX ≠ NN` (R181). -/
def exec4XNN (x : Reg) (nn : Byte) (s : State) : Host.Outcome State Fault Refusal :=
  .next (s.skipIf (s.readV x != nn))

/-- `5XY0`: skip if `VX = VY` (R182). -/
def exec5XY0 (x y : Reg) (s : State) : Host.Outcome State Fault Refusal :=
  .next (s.skipIf (s.readV x == s.readV y))

/-- `9XY0`: skip if `VX ≠ VY` (R183). -/
def exec9XY0 (x y : Reg) (s : State) : Host.Outcome State Fault Refusal :=
  .next (s.skipIf (s.readV x != s.readV y))

end Sys2Proof.Machine
end

