-- ==== Sys2Proof/Machine/Step.lean ====
section
/-! DEFINITION. The step: halted check, fetch, advance, decode, execute (40_step_cycle.md R121 to R130). -/

namespace Sys2Proof.Machine

/-- One `Step` event. Its random byte is `State.rnd`; its result for the host is `stepResult` in
Machine/HostEvents.lean. -/
def step (s : State) : Host.Outcome State Fault Refusal :=
  match s.err with
  | some e => haltedStep e s
  | none =>
    match decodeWord s.fetchWord with
    | some i => exec i s.advancePc
    | none => raiseUnknownOpcode s.fetchWord s.advancePc

/-- The state with an instruction, numbered as spec/opcode_table.json numbers it, stored where the next step
fetches, and no error latched (log entry 21). -/
def State.withFetchWord (s : State) (nbits w : Nat) : State :=
  s.placeAtPc (tableWordBytes nbits w)

end Sys2Proof.Machine
end

