-- ==== Sys2Proof/Machine/HostEvents.lean ====
section
/-! DEFINITION. The host's side of the interface: the result of a step, the events `Reset`, `Tick`, `SetKey`,
`AckRedraw`, and what the host reads (60_exceptions.md, 70_reset_and_hazards.md R300 to R306).

A host event is atomic and falls between two steps (R72, R120, D15), so each is a function of the state beside
`step`; R283 closes the list of them. -/

namespace Sys2Proof.Machine

/-! ### The result of a step (R125, R260) -/

/-- The result when an instruction has run from a state with no error latched. -/
def resultAfter (t : State) : StepResult :=
  match t.err with
  | none => .ok
  | some .stackUnderflow => .stackUnderflow
  | some .stackOverflow => .stackOverflow

/-- The result of the step taken from `s`, an output and no state: `none` only if the step were refused. -/
def stepResult (s : State) : Option StepResult :=
  match s.err with
  | some e => some (.halted e)
  | none =>
    match decodeWord s.fetchWord with
    | none => some (.unknownOpcode s.fetchWord)
    | some i =>
      match exec i s.advancePc with
      | .next t => some (resultAfter t)
      | .fault .outOfBounds => some .outOfBounds
      | .refused _ => none

/-- The numeric code of a result (R260, D21). -/
def resultCode : StepResult → Nat
  | .ok => 0
  | .unknownOpcode _ => 1
  | .stackUnderflow => 2
  | .stackOverflow => 3
  | .outOfBounds => 4
  | .halted _ => 5

/-! ### Timers (R270, R273) -/

/-- A timer one tick later: down to 0 and no further (R270). -/
def countDown (b : Byte) : Byte := if b = 0 then 0 else b - 1

/-- The `Tick` event (R270). -/
def State.tick (s : State) : State := (s.setDt (countDown s.dt)).setSt (countDown s.st)

/-- `TONE`: the sound signal, `ST > 0` (R273, D16). -/
def State.tone (s : State) : Bool := decide (0 < s.st.toNat)

/-! ### Keys and the redraw handshake (R275, R277) -/

/-- The `SetKey(k, b)` event (R275). -/
def State.pressKey (s : State) (k : Key) (b : Bool) : State := s.writeKey k b

/-- The `AckRedraw` event (R277). -/
def State.ackRedraw (s : State) : State := s.setRedraw false

/-! ### The physical view of the display (R276) -/

/-- Physical pixel `(px, py)` of the `64·MAG` by `32·MAG` view: `some true` where the host's colour for a set
pixel shows, `some false` for black, `none` outside the view (R276, D12). -/
def State.physicalPixel (s : State) (px py : Nat) : Option Bool :=
  if px < 64 * s.params.mag ∧ py < 32 * s.params.mag then
    some (s.pixel (wrapColumn (px / s.params.mag)) (wrapRow (py / s.params.mag)))
  else none

/-! ### Reset (70_reset_and_hazards.md R300 to R306) -/

/-- Memory after `Reset(PROGRAM)`: `MEM_INIT`, over it `FONT` at 0x000, over it the program at 0x200, clipped
to the 3584 bytes that fit (R303, R304). -/
def resetMemory (p : Params) (program : List Byte) : Memory :=
  let init : Memory := p.memInit.foldl (fun (m : Memory) c => m.write c.1 c.2) ⟨[]⟩
  (init.writeBytes 0 p.font.toList).writeBytes Config.entry (program.take Config.maxProgram)

/-- The `Reset(PROGRAM)` event: every element at its reset value; the keys and the parameters survive
(R300, R301, R306, D24), and so does the host's supply of random bytes (log entry 20). -/
def State.resetWith (s : State) (program : List Byte) : State where
  v := Vector.replicate 16 0
  i := 0
  pc := BitVec.ofNat 16 Config.entry
  dt := 0
  st := 0
  stack := []
  mem := resetMemory s.params program
  fb := s.params.fbInit
  keys := s.keys
  redraw := false
  err := none
  rndIn := s.rndIn
  rndCount := s.rndCount
  params := s.params

/-! ### Events and runs (R120, R283) -/

/-- The events that change state, the whole of R283's list. -/
inductive Event where
  /-- `Reset(PROGRAM)`, the host's (R300) -/
  | reset (program : List Byte)
  /-- `Step(RND)`, the core's (R121 to R130) -/
  | step (rnd : Byte)
  /-- `Tick`, the host's (R270) -/
  | tick
  /-- `SetKey(k, b)`, the host's (R275) -/
  | setKey (k : Key) (b : Bool)
  /-- `AckRedraw`, the host's (R277) -/
  | ackRedraw
deriving DecidableEq, Repr

/-- The state with a random byte supplied for the step about to be taken (R127). -/
def State.supplyRnd (s : State) (rnd : Byte) : State := { s with rndIn := rnd :: s.rndIn }

/-- The bytes supplied for later steps put back: `RND` belongs to one step only (R127). -/
def State.restoreRnd (s : State) (bytes : List Byte) : State := { s with rndIn := bytes }

/-- `Step(RND)`: one step with that random byte (R121, R127). -/
def stepWith (rnd : Byte) (s : State) : Host.Outcome State Fault Refusal :=
  match step (s.supplyRnd rnd) with
  | .next t => .next (t.restoreRnd s.rndIn)
  | .fault r => .fault r
  | .refused r => .refused r

/-- What an event does (R283). -/
def applyEvent (e : Event) (s : State) : Host.Outcome State Fault Refusal :=
  match e with
  | .reset program => .next (s.resetWith program)
  | .step rnd => stepWith rnd s
  | .tick => .next s.tick
  | .setKey k b => .next (s.pressKey k b)
  | .ackRedraw => .next s.ackRedraw

/-- A run: events one after another, in any order the host chooses (R72, R132, R284). -/
def runEvents : List Event → State → Host.Outcome State Fault Refusal
  | [], s => .next s
  | e :: es, s =>
    match applyEvent e s with
    | .next t => runEvents es t
    | .fault r => .fault r
    | .refused r => .refused r

end Sys2Proof.Machine
end

