-- ==== Sys2Proof/Safety.lean ====
section
/-! DEFINITION. The terms claims are stated in: the elements of the state and what a frame is, the invariant of
the machine, the end of a run, what a sprite covers, and how each instruction moves `PC`. -/

namespace Sys2Proof.Machine

/-! ### Elements and frames -/

/-- An element of the state: R20's, byte by byte and pixel by pixel, and the model's own two. -/
inductive Elem where
  | v (x : Reg)
  | i
  | pc
  | dt
  | st
  | stack
  | mem (a : Nat)
  | pixel (x : Column) (y : Row)
  | key (k : Key)
  | redraw
  | err
  | rnd
  | params
deriving DecidableEq, Repr

/-- An element has the same value in two states. -/
def Elem.same (e : Elem) (s t : State) : Prop :=
  match e with
  | .v x => t.readV x = s.readV x
  | .i => t.i = s.i
  | .pc => t.pc = s.pc
  | .dt => t.dt = s.dt
  | .st => t.st = s.st
  | .stack => t.stack = s.stack
  | .mem a => t.readMem a = s.readMem a
  | .pixel x y => t.pixel x y = s.pixel x y
  | .key k => t.key k = s.key k
  | .redraw => t.redraw = s.redraw
  | .err => t.err = s.err
  | .rnd => t.rndIn = s.rndIn ∧ t.rndCount = s.rndCount
  | .params => t.params = s.params

/-- From `s` to `t` only the elements of `p` may have changed. -/
def changesOnly (p : Elem → Prop) (s t : State) : Prop := ∀ e, ¬ p e → e.same s t

/-- An element is a byte of memory at one of the `n` effective addresses from `a` on (R61, R227). -/
def Elem.storedAt (a n : Nat) (e : Elem) : Prop := ∃ k < n, ∃ a', e = .mem a' ∧ ea a' = ea (a + k)

/-! ### The invariant -/

/-- What every reachable state satisfies: memory in its canonical form (R28), a stack within its capacity
(R27), parameters R5 admits. -/
def State.inv (s : State) : Prop :=
  s.mem.wf ∧ s.sp ≤ s.params.stackCapacity ∧ s.params.wf = true

/-! ### The end of a run, and waiting (R313, R309) -/

/-- Halted: a fatal error is latched (R32, R313 (a)). -/
def State.halted (s : State) : Prop := s.err ≠ none

/-- Parked on a self-jump: the word at `PC` is `1NNN` with `NNN = PC` (R313 (b)). -/
def State.parkedOnJump (s : State) : Prop :=
  s.err = none ∧ ∃ nnn, decodeWord s.fetchWord = some (.op1NNN nnn) ∧ zextAddr nnn = s.pc

/-- Waiting at `FX0A` with no key pressed (R243, R309). -/
def State.waitingForKey (s : State) : Prop :=
  s.err = none ∧ (∃ x, decodeWord s.fetchWord = some (.opFX0A x)) ∧ ∀ k, s.key k = false

/-- A safe step: it raises nothing (R314). -/
def State.stepsOk (s : State) : Prop := stepResult s = some .ok

/-! ### Runs that stay above a stack depth (R164) -/

/-- A run from `s` to `t` with no reset in which the stack never holds fewer than `d` entries. -/
def runsAbove (d : Nat) : List Event → State → State → Prop
  | [], s, t => t = s
  | e :: es, s, t =>
    (∀ program, e ≠ .reset program) ∧ ∃ u, applyEvent e s = .next u ∧ d ≤ u.sp ∧ runsAbove d es u t

/-! ### What a sprite covers (R142, R143) -/

/-- The set `S` of R143: pixel `(x, y)` is selected by a set bit of the `n` sprite rows at `I`, drawn with its
first column at `x0` and its first row at `y0`. -/
def spriteCovers (s : State) (x0 y0 n : Nat) (x : Column) (y : Row) : Prop :=
  ∃ r < n, ∃ c < 8, (s.readMem (s.base + r)).getLsbD (7 - c) = true ∧
    x.val = (x0 + c) % 64 ∧ y.val = (y0 + r) % 32

/-! ### How an instruction moves PC (R131) -/

/-- The condition of a skip, on the state it runs in; `none` for an instruction that is no skip (R180 to R184,
R240, R241). -/
def skipCondition : Instr → State → Option Prop
  | .op3XNN x nn, s => some (s.readV x = nn)
  | .op4XNN x nn, s => some (s.readV x ≠ nn)
  | .op5XY0 x y, s => some (s.readV x = s.readV y)
  | .op9XY0 x y, s => some (s.readV x ≠ s.readV y)
  | .opEX9E x, s => some (s.key (keyIndex (s.readV x)) = true)
  | .opEXA1 x, s => some (s.key (keyIndex (s.readV x)) = false)
  | _, _ => none

/-- The instructions that set `PC` to a target (R131 (c)). -/
def isTransfer : Instr → Bool
  | .op1NNN _ | .op2NNN _ | .opBNNN _ | .op00EE => true
  | _ => false

/-- The instructions that test the keys (R30). -/
def readsKeys : Instr → Bool
  | .opEX9E _ | .opEXA1 _ | .opFX0A _ => true
  | _ => false

end Sys2Proof.Machine
end

