-- ==== Sys2Proof/Certificates/Slice0/Obligations.lean ====
section
/-! DEFINITION. The statements about the machine, each a proposition named `Obligations.<Name>`; OBLIGATIONS.json
lists them. `exec i s` runs an instruction with `PC` already advanced (R122); a `changesOnly` clause is a frame:
every element of the state it does not name is as before. -/

open Sys2Proof Sys2Proof.Machine

/-! ### Decoding and encoding -/

/-- Words written out from the encodings of R94 decode to what they stand for, one or more of each of the sixteen
opcode families; the last two match no row (R96). -/
def Obligations.SampleWordsDecode : Prop :=
  decodeWord 0x00E0 = some .op00E0 ∧ decodeWord 0x00EE = some .op00EE ∧
  decodeWord 0x1204 = some (.op1NNN 0x204) ∧ decodeWord 0x220A = some (.op2NNN 0x20A) ∧
  decodeWord 0xA2F0 = some (.opANNN 0x2F0) ∧ decodeWord 0xB300 = some (.opBNNN 0x300) ∧
  decodeWord 0x3A1F = some (.op3XNN 0xA 0x1F) ∧ decodeWord 0x4211 = some (.op4XNN 2 0x11) ∧
  decodeWord 0x5340 = some (.op5XY0 3 4) ∧ decodeWord 0x9780 = some (.op9XY0 7 8) ∧
  decodeWord 0x60EA = some (.op6XNN 0 0xEA) ∧ decodeWord 0x71FF = some (.op7XNN 1 0xFF) ∧
  decodeWord 0x8125 = some (.op8XY5 1 2) ∧
  decodeWord 0xC30F = some (.opCXNN 3 0x0F) ∧ decodeWord 0xD012 = some (.opDXYN 0 1 2) ∧
  decodeWord 0xE5A1 = some (.opEXA1 5) ∧ decodeWord 0xF265 = some (.opFX65 2) ∧
  decodeWord 0xF20A = some (.opFX0A 2) ∧ decodeWord 0x800E = none ∧ decodeWord 0x0000 = none

/-- Decode and encode agree on every well-formed instruction, whatever bytes follow it (R90 to R95). -/
def Obligations.DecodeEncodeRoundTrip : Prop :=
  ∀ (i : Instr) (rest : List Byte), i.wf = true → decode (encodeBytes i ++ rest) = .instr i rest

/-- A word decodes to an instruction exactly when the instruction is well-formed and encodes to that word: each
matched word has one meaning (R95, R101). That literal digits are matched exactly is the spec's decision D9 (log
entry 15). -/
def Obligations.DecodeGivesTheOnlyEncoding : Prop :=
  ∀ (w : Word) (i : Instr), decodeWord w = some i ↔ i.wf = true ∧ encode i = w

/-- A word is the instruction of a row of R94 exactly when `W & mask = match`, and the 32 rows are all there
is. -/
def Obligations.DecodeFollowsOpcodeTable : Prop :=
  opcodeTable.length = 32 ∧
  (∀ (w : Word) (i : Instr), decodeWord w = some i →
    opcodeRow i ∈ opcodeTable ∧ w &&& (opcodeRow i).mask = (opcodeRow i).value) ∧
  (∀ (w : Word), ∀ row ∈ opcodeTable, w &&& row.mask = row.value →
    ∃ i, decodeWord w = some i ∧ opcodeRow i = row)

/-- The unmatched words, exhaustively, by the bits of the word (R96). That literal digits are matched exactly is
the spec's decision D9 (log entry 15). -/
def Obligations.UnmatchedWordsExactly : Prop :=
  ∀ w : Word, decodeWord w = none ↔
    (w.toNat < 0x1000 ∧ w ≠ 0x00E0 ∧ w ≠ 0x00EE) ∨
    (w.toNat / 4096 = 5 ∧ w.toNat % 16 ≠ 0) ∨
    (w.toNat / 4096 = 8 ∧ 7 ≤ w.toNat % 16) ∨
    (w.toNat / 4096 = 9 ∧ w.toNat % 16 ≠ 0) ∨
    (w.toNat / 4096 = 0xE ∧ w.toNat % 256 ∉ [0x9E, 0xA1]) ∨
    (w.toNat / 4096 = 0xF ∧ w.toNat % 256 ∉ [0x07, 0x0A, 0x15, 0x18, 0x1E, 0x29, 0x33, 0x55, 0x65])

/-! ### The step -/

/-- With no error latched, a step runs the instruction that the two bytes at `PC` decode to, on the state whose
`PC` has advanced by 2 (R121 to R124). -/
def Obligations.StepRunsDecodedInstruction : Prop :=
  ∀ (s : State) (i : Instr), s.err = none →
    decodeWord (s.readMem s.pc.toNat ++ s.readMem (s.pc.toNat + 1)) = some i →
    step s = exec i { s with pc := s.pc + 2 }

/-- An instruction placed where the next step fetches is the one that step runs (R64, R90, R121, R122, R124).
`withFetchWord`, which stores at `PC` and clears `ERR`, is the model's own choice, its stand-in for the load of a
program (log entry 21); that the two bytes wrap at 4096 and `PC` at 65536 are the spec's decisions D4 and D5 (log
entries 10, 11). -/
def Obligations.StepRunsPlacedInstruction : Prop :=
  ∀ (s : State) (i : Instr), i.wf = true →
    step (s.withFetchWord 16 (encode i).toNat) =
      exec i { s.withFetchWord 16 (encode i).toNat with pc := s.pc + 2 }

/-- The fetch is big-endian, at `PC mod 4096` and the byte after it modulo 4096, odd `PC` included (R62, R64,
R65, R121). That the fetch wraps is the spec's decision D4 (log entry 10). -/
def Obligations.FetchIsBigEndianAndWraps : Prop :=
  ∀ s : State, s.fetchWord.toNat =
    256 * (s.readMem (s.pc.toNat % 4096)).toNat + (s.readMem ((s.pc.toNat + 1) % 4096)).toNat

/-- An unmatched word: the result is `UnknownOpcode(W)`, `PC` advances by 2 and nothing else changes (R126, R261).
What an error leaves is the spec's decision D2 (log entry 9). -/
def Obligations.UnmatchedWordOnlyAdvances : Prop :=
  ∀ s : State, s.err = none → decodeWord s.fetchWord = none →
    stepResult s = some (.unknownOpcode s.fetchWord) ∧
    ∃ t, step s = .next t ∧ t.pc = s.pc + 2 ∧ changesOnly (· = .pc) s t

/-- While an error is latched, every further step changes nothing and reports `Halted` (R130). The latch is the
spec's decision D3 (log entry 7). -/
def Obligations.HaltedStepsChangeNothing : Prop :=
  ∀ (s : State) (e : FatalError), s.err = some e →
    stepResult s = some (.halted e) ∧ ∀ k, Sys2Proof.core.run k s = .next s

/-- A step always completes (R129), and its result is never `OutOfBounds` (R264). -/
def Obligations.EveryStepCompletes : Prop :=
  ∀ s : State, (∃ t, step s = .next t) ∧ ∃ r, stepResult s = some r ∧ r ≠ .outOfBounds

/-- The only errors: `UnknownOpcode` on an unmatched word, `StackUnderflow` by `00EE` on an empty stack,
`StackOverflow` by `2NNN` at capacity; every other step from a running machine is `Ok` (R260, R265, R267). The
bound, the latch and the order of the check are the spec's decisions D1, D3, D26 (log entries 1, 7, 25). -/
def Obligations.ErrorsRaisedExactly : Prop :=
  ∀ s : State, s.err = none →
    (∀ w, stepResult s = some (.unknownOpcode w) ↔ decodeWord s.fetchWord = none ∧ w = s.fetchWord) ∧
    (stepResult s = some .stackUnderflow ↔ decodeWord s.fetchWord = some .op00EE ∧ s.sp = 0) ∧
    (stepResult s = some .stackOverflow ↔
      (∃ nnn, decodeWord s.fetchWord = some (.op2NNN nnn)) ∧ s.sp = s.params.stackCapacity) ∧
    (stepResult s = some .ok ∨ (∃ w, stepResult s = some (.unknownOpcode w)) ∨
      stepResult s = some .stackUnderflow ∨ stepResult s = some .stackOverflow)

/-- The laws of `PC` (R131), for a step from a running machine: by 2 for an unmatched word; by 4 or 2 for a skip as
its condition holds or not; a target for a jump, call or return that raises nothing; unchanged for `FX0A` with
no key pressed; by 2 otherwise. Addition is modulo 65536, and what an error and `FX0A` do to `PC`, by the spec's
decisions D5, D2 and D17 (log entries 11, 9, 16); the key `EX9E` and `EXA1` test is `VX mod 16` by D8 (log entry
14), and `2NNN` raises exactly when `SP` equals the capacity, a parameter, by D1 and D26 (log entries 1, 25). -/
def Obligations.ProgramCounterLaws : Prop :=
  ∀ s t : State, s.err = none → step s = .next t →
    (decodeWord s.fetchWord = none → t.pc = s.pc + 2) ∧
    ∀ i, decodeWord s.fetchWord = some i →
    (∀ c, skipCondition i s = some c → (c → t.pc = s.pc + 4) ∧ (¬ c → t.pc = s.pc + 2)) ∧
    (∀ nnn, i = .op1NNN nnn → t.pc = zextAddr nnn) ∧
    (∀ nnn, i = .op2NNN nnn → t.pc = if s.sp = s.params.stackCapacity then s.pc + 2 else zextAddr nnn) ∧
    (∀ nnn, i = .opBNNN nnn → t.pc.toNat = (s.readV 0).toNat + nnn.toNat) ∧
    (i = .op00EE → t.pc = s.stack.head?.getD (s.pc + 2)) ∧
    (∀ x, i = .opFX0A x → t.pc = if ∃ k, s.key k = true then s.pc + 2 else s.pc) ∧
    (skipCondition i s = none → isTransfer i = false → (∀ x, i ≠ .opFX0A x) → t.pc = s.pc + 2)

/-! ### The invariant and the whole machine -/

/-- The state after reset meets the invariant. -/
def Obligations.ResetStateMeetsInvariant : Prop := State.reset.inv

/-- A step from any state that meets the invariant gives a state that meets it: memory stays in its canonical
form, the stack within its capacity, the parameters admissible (R27, R28). -/
def Obligations.StepKeepsInvariant : Prop :=
  ∀ s t : State, s.inv → step s = .next t → t.inv

/-- A run of any events, a reset among them, keeps the invariant and never stops (R129, R132, R284). -/
def Obligations.RunsCompleteAndKeepInvariant : Prop :=
  ∀ (es : List Event) (s : State), s.inv → ∃ t, runEvents es s = .next t ∧ t.inv

/-- After the load at reset, `FX33` and `FX55` are the only writers of memory (R76), and they write none on a halted
machine: the latch is the spec's decision D3 (log entry 7). -/
def Obligations.OnlyStoresWriteMemory : Prop :=
  ∀ (e : Event) (s t : State) (a : Nat), applyEvent e s = .next t → t.readMem a ≠ s.readMem a →
    (∃ program, e = .reset program) ∨
    ∃ rnd, e = .step rnd ∧ s.err = none ∧
      ∃ x, decodeWord s.fetchWord = some (.opFX33 x) ∨ decodeWord s.fetchWord = some (.opFX55 x)

/-- The display is written only by `00E0`, `DXYN` and a reset; the redraw flag is set only by `DXYN` and cleared
only by `AckRedraw` and a reset (R29, R31). The redraw flag's rules are the spec's decision D14 (log entry 6). -/
def Obligations.DisplayWritersOnly : Prop :=
  ∀ (e : Event) (s t : State), applyEvent e s = .next t →
    (∀ x y, t.pixel x y ≠ s.pixel x y → (∃ program, e = .reset program) ∨
      ∃ rnd, e = .step rnd ∧ (decodeWord s.fetchWord = some .op00E0 ∨
        ∃ x y n, decodeWord s.fetchWord = some (.opDXYN x y n))) ∧
    (s.redraw = false → t.redraw = true → ∃ rnd, e = .step rnd ∧
      ∃ x y n, decodeWord s.fetchWord = some (.opDXYN x y n)) ∧
    (s.redraw = true → t.redraw = false → e = .ackRedraw ∨ ∃ program, e = .reset program)

/-- `VF` changes as a side effect of `8XY4`, `8XY5`, `8XY6` and `DXYN` only; any other instruction that changes
it names it as its destination (R22). -/
def Obligations.FlagSideEffectsOnlyByFour : Prop :=
  ∀ (i : Instr) (s t : State), exec i s = .next t → t.readV vf ≠ s.readV vf →
    (∃ x y, i = .op8XY4 x y ∨ i = .op8XY5 x y ∨ i = .op8XY6 x y) ∨ (∃ x y n, i = .opDXYN x y n) ∨
    (∃ nn, i = .op6XNN vf nn ∨ i = .op7XNN vf nn ∨ i = .opCXNN vf nn) ∨
    (∃ y, i = .op8XY0 vf y ∨ i = .op8XY1 vf y ∨ i = .op8XY2 vf y ∨ i = .op8XY3 vf y) ∨
    i = .opFX07 vf ∨ i = .opFX0A vf ∨ i = .opFX65 vf

/-- The stack changes only by `2NNN`, `00EE` and a reset (R27); a latched error goes only by a reset, and one is
latched only by those two instructions (R32). The latch is the spec's decision D3 (log entry 7). -/
def Obligations.StackAndErrorOwnership : Prop :=
  ∀ (e : Event) (s t : State), applyEvent e s = .next t → (∀ program, e ≠ .reset program) →
    (t.stack ≠ s.stack ∨ t.err ≠ s.err → ∃ rnd, e = .step rnd ∧ s.err = none ∧
      (decodeWord s.fetchWord = some .op00EE ∨ ∃ nnn, decodeWord s.fetchWord = some (.op2NNN nnn))) ∧
    (∀ f, s.err = some f → t.err = some f)

/-- Only `SetKey` changes a key, no event changes a parameter, the delay timer changes only by `Tick`, `FX15` and
a reset, the sound timer only by `Tick`, `FX18` and a reset (R25, R26, R30, R34, R39). -/
def Obligations.KeysTimersAndParametersOwnership : Prop :=
  ∀ (e : Event) (s t : State), applyEvent e s = .next t →
    t.params = s.params ∧
    (∀ k, t.key k ≠ s.key k → ∃ b, e = .setKey k b) ∧
    (t.dt ≠ s.dt → e = .tick ∨ (∃ program, e = .reset program) ∨
      ∃ rnd, e = .step rnd ∧ ∃ x, decodeWord s.fetchWord = some (.opFX15 x)) ∧
    (t.st ≠ s.st → e = .tick ∨ (∃ program, e = .reset program) ∨
      ∃ rnd, e = .step rnd ∧ ∃ x, decodeWord s.fetchWord = some (.opFX18 x))

/-- No instruction reads the sound timer or the redraw flag: two states that differ in them alone run the same
instruction to states that differ in them alone (R26, R31). -/
def Obligations.SoundTimerAndRedrawUnread : Prop :=
  ∀ (i : Instr) (s t : State) (b : Byte) (r : Bool), exec i s = .next t →
    ∃ t', exec i { s with st := b, redraw := r } = .next t' ∧
      changesOnly (fun e => e = .st ∨ e = .redraw) t t'

/-- Only `EX9E`, `EXA1` and `FX0A` read the keys: any other instruction runs the same whatever keys are pressed
(R30, R274). -/
def Obligations.KeysReadOnlyByKeyInstructions : Prop :=
  ∀ (i : Instr) (s t : State) (keys : Vector Bool 16), readsKeys i = false → exec i s = .next t →
    exec i { s with keys := keys } = .next { t with keys := keys }

/-- No program can tell `I` from `I` plus a multiple of 4096: two states that differ in `I` by such a multiple run
any instruction to states that agree but for `I`, and there differ by such a multiple again (R78). -/
def Obligations.IndexObservedModuloMemorySize : Prop :=
  ∀ (i : Instr) (s t : State) (a : Word), a.toNat % 4096 = s.i.toNat % 4096 → exec i s = .next t →
    ∃ t', exec i { s with i := a } = .next t' ∧ t'.i.toNat % 4096 = t.i.toNat % 4096 ∧
      changesOnly (· = .i) t t'

/-! ### Display instructions -/

/-- `00E0` unsets all 64×32 pixels; `VF` is not written (R141). That the redraw flag is not changed is the spec's
decision D14 (log entry 6). -/
def Obligations.ClearDisplayUnsetsEveryPixel : Prop :=
  ∀ s : State, decodeWord 0x00E0#16 = some .op00E0 ∧
    ∃ t, exec .op00E0 s = .next t ∧ (∀ x y, t.pixel x y = false) ∧
      changesOnly (fun e => ∃ x y, e = .pixel x y) s t

/-- `DXYN` toggles exactly the pixels its sprite covers, sets `VF` to 1 exactly when one of them was set and to 0
otherwise, sets the redraw flag, and changes nothing else, `X` or `Y` naming `VF` included (R140, R142, R143).
`VF` as an operand is the spec's decision D6, `N = 0` and when the flags are written D7 (log entries 12, 13). -/
def Obligations.DrawTogglesCoveredPixels : Prop :=
  ∀ (x y : Reg) (n : Nat) (s : State), n < 16 →
    decodeWord (0xD#4 ++ nibble x ++ nibble y ++ BitVec.ofNat 4 n) = some (.opDXYN x y n) ∧
    ∃ t, exec (.opDXYN x y n) s = .next t ∧
      (∀ px py, spriteCovers s (s.readV x).toNat (s.readV y).toNat n px py →
        t.pixel px py = !s.pixel px py) ∧
      ((∃ px py, spriteCovers s (s.readV x).toNat (s.readV y).toNat n px py ∧ s.pixel px py = true) →
        t.readV vf = 1) ∧
      ((¬ ∃ px py, spriteCovers s (s.readV x).toNat (s.readV y).toNat n px py ∧ s.pixel px py = true) →
        t.readV vf = 0) ∧
      t.redraw = true ∧
      changesOnly (fun e => e = .v vf ∨ e = .redraw ∨
        ∃ px py, e = .pixel px py ∧ spriteCovers s (s.readV x).toNat (s.readV y).toNat n px py) s t

/-- Drawing the identical sprite twice at the same coordinates restores the display, and the second draw reports
`VF = 1` exactly when the first left a covered pixel set (R144). -/
def Obligations.DrawTwiceRestoresDisplay : Prop :=
  ∀ (x y : Reg) (n : Nat) (s t u r : State), n < 16 → exec (.opDXYN x y n) s = .next t →
    (∀ px py, u.pixel px py = t.pixel px py) → u.readV x = s.readV x → u.readV y = s.readV y →
    (∀ k < n, u.readMem (u.base + k) = s.readMem (s.base + k)) → exec (.opDXYN x y n) u = .next r →
    (∀ px py, r.pixel px py = s.pixel px py) ∧
    (r.readV vf = 1 ↔
      ∃ px py, spriteCovers s (s.readV x).toNat (s.readV y).toNat n px py ∧ s.pixel px py = false)

/-! ### Control transfer -/

/-- `00EE` pops the most recent return address into `PC`, all 16 bits; on an empty stack it latches
`StackUnderflow` and changes nothing else, the advance of `PC` standing (R160, R262). What the error leaves is the
spec's decisions D2 and D3 (log entries 7, 9). -/
def Obligations.ReturnPopsOrUnderflows : Prop :=
  decodeWord 0x00EE#16 = some .op00EE ∧
  (∀ (s : State) (a : Word) (rest : List Word), s.stack = a :: rest →
    ∃ t, exec .op00EE s = .next t ∧ t.pc = a ∧ t.stack = rest ∧
      changesOnly (fun e => e = .pc ∨ e = .stack) s t) ∧
  (∀ s : State, s.stack = [] →
    ∃ t, exec .op00EE s = .next t ∧ t.err = some .stackUnderflow ∧ changesOnly (· = .err) s t)

/-- `1NNN`: `PC = NNN`, any target (R161). -/
def Obligations.JumpSetsProgramCounter : Prop :=
  ∀ (nnn : BitVec 12) (s : State), decodeWord (0x1#4 ++ nnn) = some (.op1NNN nnn) ∧
    ∃ t, exec (.op1NNN nnn) s = .next t ∧ t.pc.toNat = nnn.toNat ∧ changesOnly (· = .pc) s t

/-- `2NNN` pushes `PC`, already past the call, and jumps; at capacity it latches `StackOverflow` and changes
nothing else (R162, R263). The bound is the parameter of D1, the check first D26, what the error leaves D2 and D3
(log entries 1, 7, 9, 25). -/
def Obligations.CallPushesOrOverflows : Prop :=
  ∀ (nnn : BitVec 12) (s : State), decodeWord (0x2#4 ++ nnn) = some (.op2NNN nnn) ∧
    (s.sp ≠ s.params.stackCapacity →
      ∃ t, exec (.op2NNN nnn) s = .next t ∧ t.pc.toNat = nnn.toNat ∧ t.stackEntry s.sp = some s.pc ∧
        (∀ j < s.sp, t.stackEntry j = s.stackEntry j) ∧ t.sp = s.sp + 1 ∧
        changesOnly (fun e => e = .pc ∨ e = .stack) s t) ∧
    (s.sp = s.params.stackCapacity →
      ∃ t, exec (.op2NNN nnn) s = .next t ∧ t.err = some .stackOverflow ∧ changesOnly (· = .err) s t)

/-- `BNNN`: `PC = V0 + NNN`, exactly; the sum never overflows 16 bits (R163). -/
def Obligations.JumpAddsV0 : Prop :=
  ∀ (nnn : BitVec 12) (s : State), decodeWord (0xB#4 ++ nnn) = some (.opBNNN nnn) ∧
    ∃ t, exec (.opBNNN nnn) s = .next t ∧ t.pc.toNat = (s.readV 0).toNat + nnn.toNat ∧
      changesOnly (· = .pc) s t

/-- The oldest `d` return addresses are an invariant of every event but a reset that leaves at least `d` entries
(R27, R160, R162, R164): the entry `STACK[j]`, `j < d`, is as before. That the stack has a capacity, and that a call
at capacity pushes nothing, are the spec's decisions D1 and D26 (log entries 1, 25). -/
def Obligations.EventsKeepOldestStackEntries : Prop :=
  ∀ (e : Event) (s t : State) (d : Nat), (∀ program, e ≠ .reset program) → applyEvent e s = .next t →
    d ≤ s.sp → d ≤ t.sp → ∀ j < d, t.stackEntry j = s.stackEntry j

/-- Call and return round trip (R164): after a call that succeeds, and any run of events that never holds fewer
entries than the call left and ends with as many, a `00EE` resumes at the instruction after the call with the
stack as it was before the call. The bound is the parameter of D1, the check first D26, the latch D3 (log entries 1,
25, 7). -/
def Obligations.CallReturnRoundTrip : Prop :=
  ∀ (s t u r : State) (nnn : BitVec 12) (es : List Event), s.err = none →
    decodeWord s.fetchWord = some (.op2NNN nnn) → s.sp ≠ s.params.stackCapacity → step s = .next t →
    runsAbove t.sp es t u → u.sp = t.sp → u.err = none → decodeWord u.fetchWord = some .op00EE →
    step u = .next r → r.pc = s.pc + 2 ∧ r.stack = s.stack

/-! ### Skips -/

/-- `3XNN` skips exactly when `VX = NN`, `4XNN` exactly when `VX ≠ NN` (R180, R181). That the skip wraps at
65536 is the spec's decision D5 (log entry 11). -/
def Obligations.ImmediateSkips : Prop :=
  ∀ (x : Reg) (nn : Byte) (s : State),
    decodeWord (0x3#4 ++ nibble x ++ nn) = some (.op3XNN x nn) ∧
    decodeWord (0x4#4 ++ nibble x ++ nn) = some (.op4XNN x nn) ∧
    (∃ t, exec (.op3XNN x nn) s = .next t ∧ changesOnly (· = .pc) s t ∧
      t.pc.toNat = (if s.readV x = nn then (s.pc.toNat + 2) % 65536 else s.pc.toNat)) ∧
    (∃ t, exec (.op4XNN x nn) s = .next t ∧ changesOnly (· = .pc) s t ∧
      t.pc.toNat = (if s.readV x = nn then s.pc.toNat else (s.pc.toNat + 2) % 65536))

/-- `5XY0` skips exactly when `VX = VY`, `9XY0` exactly when `VX ≠ VY`; with another low nibble the word is
unmatched (R182, R183). That the skip wraps at 65536 and that the low nibble is matched exactly are the spec's
decisions D5 and D9 (log entries 11, 15). -/
def Obligations.RegisterSkips : Prop :=
  ∀ (x y : Reg) (s : State),
    decodeWord (0x5#4 ++ nibble x ++ nibble y ++ 0x0#4) = some (.op5XY0 x y) ∧
    decodeWord (0x9#4 ++ nibble x ++ nibble y ++ 0x0#4) = some (.op9XY0 x y) ∧
    (∀ n : BitVec 4, n ≠ 0 → decodeWord (0x5#4 ++ nibble x ++ nibble y ++ n) = none ∧
      decodeWord (0x9#4 ++ nibble x ++ nibble y ++ n) = none) ∧
    (∃ t, exec (.op5XY0 x y) s = .next t ∧ changesOnly (· = .pc) s t ∧
      t.pc.toNat = (if s.readV x = s.readV y then (s.pc.toNat + 2) % 65536 else s.pc.toNat)) ∧
    (∃ t, exec (.op9XY0 x y) s = .next t ∧ changesOnly (· = .pc) s t ∧
      t.pc.toNat = (if s.readV x = s.readV y then s.pc.toNat else (s.pc.toNat + 2) % 65536))

/-! ### Register loads and arithmetic -/

/-- `6XNN`: `VX = NN`; `8XY0`: `VX = VY` (R190, R192). -/
def Obligations.LoadsSetRegister : Prop :=
  ∀ (x y : Reg) (nn : Byte) (s : State),
    decodeWord (0x6#4 ++ nibble x ++ nn) = some (.op6XNN x nn) ∧
    decodeWord (0x8#4 ++ nibble x ++ nibble y ++ 0x0#4) = some (.op8XY0 x y) ∧
    (∃ t, exec (.op6XNN x nn) s = .next t ∧ t.readV x = nn ∧ changesOnly (· = .v x) s t) ∧
    (∃ t, exec (.op8XY0 x y) s = .next t ∧ t.readV x = s.readV y ∧ changesOnly (· = .v x) s t)

/-- `7XNN`: `VX = (VX + NN) mod 256`, no flag touched (R191). -/
def Obligations.AddImmediateWrapsWithoutFlag : Prop :=
  ∀ (x : Reg) (nn : Byte) (s : State), decodeWord (0x7#4 ++ nibble x ++ nn) = some (.op7XNN x nn) ∧
    ∃ t, exec (.op7XNN x nn) s = .next t ∧
      (t.readV x).toNat = ((s.readV x).toNat + nn.toNat) % 256 ∧ changesOnly (· = .v x) s t

/-- `8XY1`, `8XY2`, `8XY3`: bit by bit OR, AND, XOR into `VX`, no flag (R193, R194, R195). -/
def Obligations.BitwiseOperationsBitByBit : Prop :=
  ∀ (x y : Reg) (s : State),
    decodeWord (0x8#4 ++ nibble x ++ nibble y ++ 0x1#4) = some (.op8XY1 x y) ∧
    decodeWord (0x8#4 ++ nibble x ++ nibble y ++ 0x2#4) = some (.op8XY2 x y) ∧
    decodeWord (0x8#4 ++ nibble x ++ nibble y ++ 0x3#4) = some (.op8XY3 x y) ∧
    (∃ t, exec (.op8XY1 x y) s = .next t ∧ changesOnly (· = .v x) s t ∧
      ∀ k < 8, (t.readV x).getLsbD k = ((s.readV x).getLsbD k || (s.readV y).getLsbD k)) ∧
    (∃ t, exec (.op8XY2 x y) s = .next t ∧ changesOnly (· = .v x) s t ∧
      ∀ k < 8, (t.readV x).getLsbD k = ((s.readV x).getLsbD k && (s.readV y).getLsbD k)) ∧
    (∃ t, exec (.op8XY3 x y) s = .next t ∧ changesOnly (· = .v x) s t ∧
      ∀ k < 8, (t.readV x).getLsbD k = ((s.readV x).getLsbD k ^^ (s.readV y).getLsbD k))

/-- `8XY4`: the sum modulo 256 in `VX`; in `VF`, unless it is the destination, 1 when the sum exceeds 255, else 0
(R196). With `X = 0xF` the result stands, by the spec's decision D6 (log entry 12). -/
def Obligations.AddRegistersSetsCarry : Prop :=
  ∀ (x y : Reg) (s : State),
    decodeWord (0x8#4 ++ nibble x ++ nibble y ++ 0x4#4) = some (.op8XY4 x y) ∧
    ∃ t, exec (.op8XY4 x y) s = .next t ∧
      (t.readV x).toNat = ((s.readV x).toNat + (s.readV y).toNat) % 256 ∧
      (x ≠ vf → t.readV vf = if (s.readV x).toNat + (s.readV y).toNat > 255 then 1 else 0) ∧
      changesOnly (fun e => e = .v x ∨ e = .v vf) s t

/-- `8XY5`: the difference modulo 256 in `VX`; in `VF`, unless it is the destination, 0 when `VX < VY`, else 1
(R197). With `X = 0xF` the result stands, by the spec's decision D6 (log entry 12). -/
def Obligations.SubtractRegistersSetsNotBorrow : Prop :=
  ∀ (x y : Reg) (s : State),
    decodeWord (0x8#4 ++ nibble x ++ nibble y ++ 0x5#4) = some (.op8XY5 x y) ∧
    ∃ t, exec (.op8XY5 x y) s = .next t ∧
      ((t.readV x).toNat : Int) = ((s.readV x).toNat - (s.readV y).toNat : Int) % 256 ∧
      (x ≠ vf → t.readV vf = if (s.readV x).toNat < (s.readV y).toNat then 0 else 1) ∧
      changesOnly (fun e => e = .v x ∨ e = .v vf) s t

/-- `8XY6`: `VY` halved in `VX`, whatever `VX` held; in `VF`, unless it is the destination, the bit shifted out of
`VY` (R198). With `X = 0xF` the result stands, by the spec's decision D6 (log entry 12). -/
def Obligations.ShiftTakesItsSourceFromVY : Prop :=
  ∀ (x y : Reg) (s : State),
    decodeWord (0x8#4 ++ nibble x ++ nibble y ++ 0x6#4) = some (.op8XY6 x y) ∧
    ∃ t, exec (.op8XY6 x y) s = .next t ∧
      (t.readV x).toNat = (s.readV y).toNat / 2 ∧
      (x ≠ vf → (t.readV vf).toNat = (s.readV y).toNat % 2) ∧
      changesOnly (fun e => e = .v x ∨ e = .v vf) s t

/-- The table of R201, `VF` as an operand of `8XY4`, `8XY5`, `8XY6`, row by row: with `X = 0xF` the result stands,
with `Y = 0xF` the old `VF` is the operand and the flag is written. The spec's decision D6 (log entry 12). -/
def Obligations.FlagRegisterAsOperand : Prop :=
  ∀ (x : Reg) (s : State), x ≠ vf →
    (∃ t, exec (.op8XY4 vf x) s = .next t ∧ t.readV vf = s.readV vf + s.readV x ∧
      changesOnly (· = .v vf) s t) ∧
    (∃ t, exec (.op8XY5 vf x) s = .next t ∧ t.readV vf = s.readV vf - s.readV x ∧
      changesOnly (· = .v vf) s t) ∧
    (∃ t, exec (.op8XY6 vf x) s = .next t ∧ (t.readV vf).toNat = (s.readV x).toNat / 2 ∧
      changesOnly (· = .v vf) s t) ∧
    (∃ t, exec (.op8XY4 x vf) s = .next t ∧ t.readV x = s.readV x + s.readV vf ∧
      t.readV vf = if (s.readV x).toNat + (s.readV vf).toNat > 255 then 1 else 0) ∧
    (∃ t, exec (.op8XY5 x vf) s = .next t ∧ t.readV x = s.readV x - s.readV vf ∧
      t.readV vf = if (s.readV x).toNat < (s.readV vf).toNat then 0 else 1) ∧
    (∃ t, exec (.op8XY6 x vf) s = .next t ∧ (t.readV x).toNat = (s.readV vf).toNat / 2 ∧
      (t.readV vf).toNat = (s.readV vf).toNat % 2) ∧
    (∃ t, exec (.op8XY4 vf vf) s = .next t ∧ (t.readV vf).toNat = 2 * (s.readV vf).toNat % 256) ∧
    (∃ t, exec (.op8XY5 vf vf) s = .next t ∧ t.readV vf = 0) ∧
    (∃ t, exec (.op8XY6 vf vf) s = .next t ∧ (t.readV vf).toNat = (s.readV vf).toNat / 2)

/-- `CXNN`: `VX = RND & NN`, whatever `RND` is, both for the model's own step, whose `RND` is `State.rnd`, and for
every `RND` of a `Step(RND)` event (R199, R127). `RND` is a free input by the spec's decision D10 (log entry 5). -/
def Obligations.RandomByteIsMasked : Prop :=
  ∀ (x : Reg) (nn : Byte) (s : State),
    decodeWord (0xC#4 ++ nibble x ++ nn) = some (.opCXNN x nn) ∧
    (∃ t, exec (.opCXNN x nn) s = .next t ∧ t.readV x = s.rnd &&& nn ∧
      changesOnly (fun e => e = .v x ∨ e = .rnd) s t) ∧
    (s.err = none → decodeWord s.fetchWord = some (.opCXNN x nn) →
      ∀ rnd, ∃ t, applyEvent (.step rnd) s = .next t ∧ t.readV x = rnd &&& nn ∧
        changesOnly (fun e => e = .v x ∨ e = .pc) s t)

/-! ### The event of a step -/

/-- A `Step(RND)` event is a step (R127, R283): on a halted machine, an unmatched word and every instruction but
`CXNN` it is `step`, whatever `RND` is; on `CXNN` it advances `PC` and writes `VX = RND & NN` (R122, R199) and
changes nothing else. `RND` as a free input and the latch are the spec's decisions D10 and D3, how the model supplies
`RND` is its own choice (log entries 5, 7). -/
def Obligations.StepEventIsStep : Prop :=
  ∀ (rnd : Byte) (s : State),
    ((s.err = none → ∀ x nn, decodeWord s.fetchWord ≠ some (.opCXNN x nn)) →
      applyEvent (.step rnd) s = step s) ∧
    (∀ x nn, s.err = none → decodeWord s.fetchWord = some (.opCXNN x nn) →
      applyEvent (.step rnd) s = .next ({ s with pc := s.pc + 2 }.writeV x (rnd &&& nn)))

/-! ### Index register and memory -/

/-- `ANNN`: `I = NNN`; `FX1E`: `I = (I + VX) mod 65536`; `FX29`: `I = VX * 5`, unmasked; no flag touched
(R220, R221, R222). -/
def Obligations.IndexRegisterInstructions : Prop :=
  ∀ (x : Reg) (nnn : BitVec 12) (s : State),
    decodeWord (0xA#4 ++ nnn) = some (.opANNN nnn) ∧
    decodeWord (0xF#4 ++ nibble x ++ 0x1E#8) = some (.opFX1E x) ∧
    decodeWord (0xF#4 ++ nibble x ++ 0x29#8) = some (.opFX29 x) ∧
    (∃ t, exec (.opANNN nnn) s = .next t ∧ t.i.toNat = nnn.toNat ∧ changesOnly (· = .i) s t) ∧
    (∃ t, exec (.opFX1E x) s = .next t ∧ t.i.toNat = (s.i.toNat + (s.readV x).toNat) % 65536 ∧
      changesOnly (· = .i) s t) ∧
    (∃ t, exec (.opFX29 x) s = .next t ∧ t.i.toNat = (s.readV x).toNat * 5 ∧ changesOnly (· = .i) s t)

/-- `FX33`: hundreds, tens, ones of `VX` at `I, I+1, I+2`, each address modulo 4096; `I` and every other byte
unchanged (R223). -/
def Obligations.StoreDecimalDigits : Prop :=
  ∀ (x : Reg) (s : State), decodeWord (0xF#4 ++ nibble x ++ 0x33#8) = some (.opFX33 x) ∧
    ∃ t, exec (.opFX33 x) s = .next t ∧
      (t.readMem (ea s.base)).toNat = (s.readV x).toNat / 100 ∧
      (t.readMem (ea (s.base + 1))).toNat = (s.readV x).toNat / 10 % 10 ∧
      (t.readMem (ea (s.base + 2))).toNat = (s.readV x).toNat % 10 ∧
      changesOnly (·.storedAt s.base 3) s t

/-- `FX55`: `V0..VX` stored from `I` on, each address modulo 4096, then `I` moved past them; registers and every
other byte unchanged (R224). That `I` wraps at 65536 is the spec's decision D5 (log entry 11). -/
def Obligations.StoreRegisters : Prop :=
  ∀ (x : Reg) (s : State), decodeWord (0xF#4 ++ nibble x ++ 0x55#8) = some (.opFX55 x) ∧
    ∃ t, exec (.opFX55 x) s = .next t ∧
      (∀ k : Reg, k ≤ x → t.readMem (ea (s.base + k.val)) = s.readV k) ∧
      t.i.toNat = (s.i.toNat + x.val + 1) % 65536 ∧
      changesOnly (fun e => e = .i ∨ e.storedAt s.base (x.val + 1)) s t

/-- `FX65`: `V0..VX` loaded from `I` on, each address modulo 4096, then `I` moved past them; memory and the other
registers unchanged (R225). That `I` wraps at 65536 is the spec's decision D5 (log entry 11). -/
def Obligations.LoadRegisters : Prop :=
  ∀ (x : Reg) (s : State), decodeWord (0xF#4 ++ nibble x ++ 0x65#8) = some (.opFX65 x) ∧
    ∃ t, exec (.opFX65 x) s = .next t ∧
      (∀ k : Reg, k ≤ x → t.readV k = s.readMem (ea (s.base + k.val))) ∧
      t.i.toNat = (s.i.toNat + x.val + 1) % 65536 ∧
      changesOnly (fun e => e = .i ∨ ∃ k : Reg, k ≤ x ∧ e = .v k) s t

/-- Store and load round trip (R226): when `I` is set back to an address with the same effective address, and no
step in between wrote the bytes stored, `FX65` loads exactly what `FX55` stored. -/
def Obligations.StoreLoadRoundTrip : Prop :=
  ∀ (x : Reg) (s t u r : State), exec (.opFX55 x) s = .next t → ea u.base = ea s.base →
    (∀ k ≤ x.val, u.readMem (s.base + k) = t.readMem (s.base + k)) → exec (.opFX65 x) u = .next r →
    ∀ k : Reg, k ≤ x → r.readV k = s.readV k

/-- Self-modifying code (R74): of the two bytes the next fetch reads (the high one, `j = 0`, at `PC`, the low one,
`j = 1`, at `PC + 1`), each that `FX55` or `FX33` stored, one or both of them, is fetched as it was stored, and each
that it did not store is fetched as before. The spec's decision D4, both parts (log entry 10). -/
def Obligations.StoreIntoCodeIsFetched : Prop :=
  ∀ (x : Reg) (s t : State) (j : Nat), j < 2 →
    (exec (.opFX55 x) s = .next t →
      (∀ k : Reg, k ≤ x → ea (s.pc.toNat + j) = ea (s.base + k.val) →
        t.fetchWord.extractLsb' (8 * (1 - j)) 8 = s.readV k) ∧
      ((∀ k : Reg, k ≤ x → ea (s.pc.toNat + j) ≠ ea (s.base + k.val)) →
        t.fetchWord.extractLsb' (8 * (1 - j)) 8 = s.fetchWord.extractLsb' (8 * (1 - j)) 8)) ∧
    (exec (.opFX33 x) s = .next t →
      (∀ k < 3, ea (s.pc.toNat + j) = ea (s.base + k) →
        (t.fetchWord.extractLsb' (8 * (1 - j)) 8).toNat = (s.readV x).toNat / 10 ^ (2 - k) % 10) ∧
      ((∀ k < 3, ea (s.pc.toNat + j) ≠ ea (s.base + k)) →
        t.fetchWord.extractLsb' (8 * (1 - j)) 8 = s.fetchWord.extractLsb' (8 * (1 - j)) 8))

/-! ### Keypad and timer instructions -/

/-- `EX9E` skips exactly when the key `VX mod 16` is pressed, `EXA1` exactly when it is not (R240, R241, R246).
The key a value above 0x0F selects is the spec's decision D8 (log entry 14). -/
def Obligations.KeySkips : Prop :=
  ∀ (x : Reg) (s : State) (k : Key), k.val = (s.readV x).toNat % 16 →
    decodeWord (0xE#4 ++ nibble x ++ 0x9E#8) = some (.opEX9E x) ∧
    decodeWord (0xE#4 ++ nibble x ++ 0xA1#8) = some (.opEXA1 x) ∧
    (∃ t, exec (.opEX9E x) s = .next t ∧ changesOnly (· = .pc) s t ∧
      t.pc.toNat = (if s.key k = true then (s.pc.toNat + 2) % 65536 else s.pc.toNat)) ∧
    (∃ t, exec (.opEXA1 x) s = .next t ∧ changesOnly (· = .pc) s t ∧
      t.pc.toNat = (if s.key k = true then s.pc.toNat else (s.pc.toNat + 2) % 65536))

/-- `FX07`: `VX = DT`; `FX15`: `DT = VX`; `FX18`: `ST = VX`, and the sound signal follows at once
(R242, R244, R245). That the signal is `ST > 0` is the spec's decision D16 (log entry 17). -/
def Obligations.TimerInstructions : Prop :=
  ∀ (x : Reg) (s : State),
    decodeWord (0xF#4 ++ nibble x ++ 0x07#8) = some (.opFX07 x) ∧
    decodeWord (0xF#4 ++ nibble x ++ 0x15#8) = some (.opFX15 x) ∧
    decodeWord (0xF#4 ++ nibble x ++ 0x18#8) = some (.opFX18 x) ∧
    (∃ t, exec (.opFX07 x) s = .next t ∧ t.readV x = s.dt ∧ changesOnly (· = .v x) s t) ∧
    (∃ t, exec (.opFX15 x) s = .next t ∧ t.dt = s.readV x ∧ changesOnly (· = .dt) s t) ∧
    (∃ t, exec (.opFX18 x) s = .next t ∧ t.st = s.readV x ∧ (t.tone = true ↔ s.readV x ≠ 0) ∧
      changesOnly (· = .st) s t)

/-- `FX0A`: with a key pressed, `VX` is the highest pressed key; with none, `PC` goes back to where the step began
and nothing else changes (R243). That it tests levels is the spec's decision D17 (log entry 16). -/
def Obligations.KeyWaitTakesHighestKey : Prop :=
  ∀ (x : Reg) (s : State), decodeWord (0xF#4 ++ nibble x ++ 0x0A#8) = some (.opFX0A x) ∧
    (∀ k : Key, s.key k = true → (∀ j : Key, k < j → s.key j = false) →
      ∃ t, exec (.opFX0A x) s = .next t ∧ (t.readV x).toNat = k.val ∧ changesOnly (· = .v x) s t) ∧
    ((∀ k : Key, s.key k = false) →
      ∃ t, exec (.opFX0A x) s = .next t ∧ (t.pc.toNat + 2) % 65536 = s.pc.toNat ∧
        changesOnly (· = .pc) s t)

/-! ### Waiting, and the end of a run -/

/-- A machine at `FX0A` with no key pressed repeats it for ever with no change of state; once some key is pressed
the next step passes it (R243, R309). That it tests levels is the spec's decision D17 (log entry 16). -/
def Obligations.KeyWaitRepeatsUntilKeyPressed : Prop :=
  ∀ s : State, s.waitingForKey →
    (∀ n, Sys2Proof.core.run n s = .next s) ∧
    ∀ k : Key, ∃ t, step (s.pressKey k true) = .next t ∧ t.pc = s.pc + 2

/-- A machine parked on a self-jump stays as it is, every step `Ok` (R313). The end condition is the spec's
decision D25 (log entry 26). -/
def Obligations.SelfJumpParks : Prop :=
  ∀ s : State, s.parkedOnJump → s.stepsOk ∧ ∀ n, Sys2Proof.core.run n s = .next s

/-! ### The host's events -/

/-- `Tick` decrements both timers down to 0 and no further, and changes nothing else (R270). -/
def Obligations.TickCountsDownToZero : Prop :=
  ∀ s : State, ∃ t, applyEvent .tick s = .next t ∧ t.dt.toNat = s.dt.toNat - 1 ∧
    t.st.toNat = s.st.toNat - 1 ∧ changesOnly (fun e => e = .dt ∨ e = .st) s t

/-- `SetKey(k, b)` sets one key and changes nothing else (R275); `AckRedraw` clears the redraw flag and changes
nothing else, by the spec's decision D14 (log entry 6). -/
def Obligations.KeyAndRedrawEvents : Prop :=
  ∀ (s : State) (k : Key) (b : Bool),
    (∃ t, applyEvent (.setKey k b) s = .next t ∧ t.key k = b ∧ changesOnly (· = .key k) s t) ∧
    (∃ t, applyEvent .ackRedraw s = .next t ∧ t.redraw = false ∧ changesOnly (· = .redraw) s t)

/-- A reset loads the program at 0x200, clipped to 3584 bytes, puts the font parameter at 0x000 to 0x04F, and
leaves every other byte at what `MEM_INIT` alone gives it (R303, R304). That font and `MEM_INIT` are parameters is the
spec's decision D11 (log entry 2). -/
def Obligations.ResetLoadsProgram : Prop :=
  ∀ (s : State) (program : List Byte), ∃ t, applyEvent (.reset program) s = .next t ∧
    (∀ k (h : k < program.length), k < 3584 → t.readMem (0x200 + k) = program[k]) ∧
    (∀ k (h : k < 80), t.readMem k = s.params.font[k]) ∧
    (∀ a, 80 ≤ a → a < 4096 → (a < 0x200 ∨ 0x200 + program.length ≤ a) →
      t.readMem a = (s.params.memInit.foldl (fun (m : Memory) c => m.write c.1 c.2) ⟨[]⟩).read a)

/-- What a reset leaves, from any state, halted ones included: registers and timers zero, `PC` 0x200, an empty
stack, no error, no redraw, the display at its parameter, keys and parameters kept; the first step then fetches at
0x200 and 0x201 (R38, R301, R302, R306). Keys surviving is D24, the redraw flag D14, the latch D3, the display
parameter D13 (log entries 3, 6, 7, 20). -/
def Obligations.ResetValues : Prop :=
  ∀ (s : State) (program : List Byte), ∃ t, applyEvent (.reset program) s = .next t ∧
    (∀ x, t.readV x = 0) ∧ t.i = 0 ∧ t.pc = 0x200 ∧ t.dt = 0 ∧ t.st = 0 ∧ t.sp = 0 ∧
    t.redraw = false ∧ t.err = none ∧ t.fb = s.params.fbInit ∧ t.keys = s.keys ∧ t.params = s.params ∧
    t.fetchWord = t.readMem 0x200 ++ t.readMem 0x201

/-- The physical view shows each logical pixel as a block of `MAG` by `MAG`, and wrapping physical indices is
wrapping logical coordinates (R145, R276). The view is the spec's decision D12 (log entry 19). -/
def Obligations.PhysicalViewShowsBlocks : Prop :=
  ∀ (s : State) (x y dx dy : Nat), dx < s.params.mag → dy < s.params.mag →
    s.physicalPixel ((x * s.params.mag + dx) % (64 * s.params.mag))
      ((y * s.params.mag + dy) % (32 * s.params.mag)) =
    some (s.pixel ⟨x % 64, Nat.mod_lt _ (by decide)⟩ ⟨y % 32, Nat.mod_lt _ (by decide)⟩)
end

