-- ==== Sys2Proof/Laws/Decode.lean ====
section
/-! SUPPORT. The fields of a word that a format lays out, and a word put together from its fields: what the
decoder reads is what the encoder wrote. -/

namespace Sys2Proof

/-! ### The parts of a concatenation -/
theorem high_append {m n : Nat} (a : BitVec m) (b : BitVec n) : (a ++ b).extractLsb' n m = a := by
  ext i hi
  simp [BitVec.getLsbD_append, hi]

theorem low_append {m n : Nat} (a : BitVec m) (b : BitVec n) : (a ++ b).extractLsb' 0 n = b := by
  ext i hi
  simp [BitVec.getLsbD_append, hi]

theorem extract_high {m n k l : Nat} (a : BitVec m) (b : BitVec n) :
    (a ++ b).extractLsb' (n + k) l = a.extractLsb' k l := by
  ext i hi
  simp [BitVec.getLsbD_append, Nat.add_assoc]

/-! ### The fields of a word laid out by a format (R91, R92) -/

theorem opField_NNN (op : BitVec 4) (nnn : BitVec 12) : opField (op ++ nnn) = op := high_append op nnn

theorem nnnField_NNN (op : BitVec 4) (nnn : BitVec 12) : nnnField (op ++ nnn) = nnn := low_append op nnn

theorem opField_XNN (op x : BitVec 4) (nn : BitVec 8) : opField (op ++ x ++ nn) = op :=
  (extract_high (k := 4) (l := 4) (op ++ x) nn).trans (high_append op x)

theorem xField_XNN (op : BitVec 4) (x : Reg) (nn : BitVec 8) : xField (op ++ nibble x ++ nn) = x :=
  congrArg BitVec.toFin ((extract_high (k := 0) (l := 4) (op ++ nibble x) nn).trans (low_append op (nibble x)))

theorem nnField_XNN (op x : BitVec 4) (nn : BitVec 8) : nnField (op ++ x ++ nn) = nn :=
  low_append (op ++ x) nn

theorem opField_XYN (op x y n : BitVec 4) : opField (op ++ x ++ y ++ n) = op :=
  (extract_high (k := 8) (l := 4) (op ++ x ++ y) n).trans ((extract_high (k := 4) (l := 4) (op ++ x) y).trans (high_append op x))

theorem xField_XYN (op : BitVec 4) (x : Reg) (y n : BitVec 4) : xField (op ++ nibble x ++ y ++ n) = x :=
  congrArg BitVec.toFin ((extract_high (k := 4) (l := 4) (op ++ nibble x ++ y) n).trans
    ((extract_high (k := 0) (l := 4) (op ++ nibble x) y).trans (low_append op (nibble x))))

theorem yField_XYN (op x : BitVec 4) (y : Reg) (n : BitVec 4) : yField (op ++ x ++ nibble y ++ n) = y :=
  congrArg BitVec.toFin ((extract_high (k := 0) (l := 4) (op ++ x ++ nibble y) n).trans (low_append (op ++ x) (nibble y)))

theorem nField_XYN (op x y n : BitVec 4) : nField (op ++ x ++ y ++ n) = n :=
  low_append (op ++ x ++ y) n

/-! ### A word is its fields (R91) -/

theorem split_append {m n : Nat} (w : BitVec (m + n)) : w.extractLsb' n m ++ w.extractLsb' 0 n = w := by
  ext i hi
  simp only [BitVec.getElem_append, BitVec.getElem_extractLsb', Nat.zero_add]
  split
  · simp [BitVec.getLsbD_eq_getElem, hi]
  · rw [show n + (i - n) = i by omega, BitVec.getLsbD_eq_getElem hi]

theorem word_NNN (w : Word) : opField w ++ nnnField w = w := split_append (m := 4) (n := 12) w

theorem extract_extract {w s l s' l' : Nat} (h : s' + l' ≤ l) (a : BitVec w) : (a.extractLsb' s l).extractLsb' s' l' = a.extractLsb' (s + s') l' := by
  ext i hi
  simp [Nat.add_assoc, show s' + i < l by omega]

theorem word_XNN (w : Word) : opField w ++ nibble (xField w) ++ nnField w = w := by
  have h : w.extractLsb' 8 8 = opField w ++ nibble (xField w) := by
    refine (split_append (m := 4) (n := 4) (w.extractLsb' 8 8)).symm.trans ?_
    rw [extract_extract (by decide), extract_extract (by decide)]
    rfl
  exact (congrArg (fun z : BitVec 8 => z ++ nnField w) h.symm).trans (split_append (m := 8) (n := 8) w)

theorem word_XYN (w : Word) : opField w ++ nibble (xField w) ++ nibble (yField w) ++ nField w = w := by
  have h : w.extractLsb' 4 12 = opField w ++ nibble (xField w) ++ nibble (yField w) := by
    refine (split_append (m := 8) (n := 4) (w.extractLsb' 4 12)).symm.trans ?_
    rw [extract_extract (by decide), extract_extract (by decide)]
    refine congrArg (fun z : BitVec 8 => z ++ nibble (yField w)) ?_
    refine (split_append (m := 4) (n := 4) (w.extractLsb' 8 8)).symm.trans ?_
    rw [extract_extract (by decide), extract_extract (by decide)]
    rfl
  exact (congrArg (fun z : BitVec 12 => z ++ nField w) h.symm).trans (split_append (m := 12) (n := 4) w)

end Sys2Proof
end

