-- ==== Sys2Proof/Laws/State.lean ====
section
/-! SUPPORT. One lemma per element per update of the state, true by `rfl`, so that no later proof unfolds a
record update; then what each read gives after an update of the element it reads. -/

namespace Sys2Proof.Machine

variable (s : State)

/-! ### `writeV` -/

@[simp] theorem State.writeV_v (x : Reg) (b : Byte) : (s.writeV x b).v = s.v.set x.val b := rfl
@[simp] theorem State.writeV_i (x : Reg) (b : Byte) : (s.writeV x b).i = s.i := rfl
@[simp] theorem State.writeV_pc (x : Reg) (b : Byte) : (s.writeV x b).pc = s.pc := rfl
@[simp] theorem State.writeV_dt (x : Reg) (b : Byte) : (s.writeV x b).dt = s.dt := rfl
@[simp] theorem State.writeV_st (x : Reg) (b : Byte) : (s.writeV x b).st = s.st := rfl
@[simp] theorem State.writeV_stack (x : Reg) (b : Byte) : (s.writeV x b).stack = s.stack := rfl
@[simp] theorem State.writeV_mem (x : Reg) (b : Byte) : (s.writeV x b).mem = s.mem := rfl
@[simp] theorem State.writeV_fb (x : Reg) (b : Byte) : (s.writeV x b).fb = s.fb := rfl
@[simp] theorem State.writeV_keys (x : Reg) (b : Byte) : (s.writeV x b).keys = s.keys := rfl
@[simp] theorem State.writeV_redraw (x : Reg) (b : Byte) : (s.writeV x b).redraw = s.redraw := rfl
@[simp] theorem State.writeV_err (x : Reg) (b : Byte) : (s.writeV x b).err = s.err := rfl
@[simp] theorem State.writeV_rndIn (x : Reg) (b : Byte) : (s.writeV x b).rndIn = s.rndIn := rfl
@[simp] theorem State.writeV_rndCount (x : Reg) (b : Byte) : (s.writeV x b).rndCount = s.rndCount := rfl
@[simp] theorem State.writeV_params (x : Reg) (b : Byte) : (s.writeV x b).params = s.params := rfl
@[simp] theorem State.writeV_readMem (x : Reg) (b : Byte) (a' : Nat) :
    (s.writeV x b).readMem a' = s.readMem a' := rfl
@[simp] theorem State.writeV_pixel (x : Reg) (b : Byte) (px : Column) (py : Row) :
    (s.writeV x b).pixel px py = s.pixel px py := rfl
@[simp] theorem State.writeV_key (x : Reg) (b : Byte) (j : Key) : (s.writeV x b).key j = s.key j := rfl
@[simp] theorem State.writeV_sp (x : Reg) (b : Byte) : (s.writeV x b).sp = s.sp := rfl
@[simp] theorem State.writeV_base (x : Reg) (b : Byte) : (s.writeV x b).base = s.base := rfl

/-! ### `setRegs` -/

@[simp] theorem State.setRegs_v (v : Vector Byte 16) : (s.setRegs v).v = v := rfl
@[simp] theorem State.setRegs_i (v : Vector Byte 16) : (s.setRegs v).i = s.i := rfl
@[simp] theorem State.setRegs_pc (v : Vector Byte 16) : (s.setRegs v).pc = s.pc := rfl
@[simp] theorem State.setRegs_dt (v : Vector Byte 16) : (s.setRegs v).dt = s.dt := rfl
@[simp] theorem State.setRegs_st (v : Vector Byte 16) : (s.setRegs v).st = s.st := rfl
@[simp] theorem State.setRegs_stack (v : Vector Byte 16) : (s.setRegs v).stack = s.stack := rfl
@[simp] theorem State.setRegs_mem (v : Vector Byte 16) : (s.setRegs v).mem = s.mem := rfl
@[simp] theorem State.setRegs_fb (v : Vector Byte 16) : (s.setRegs v).fb = s.fb := rfl
@[simp] theorem State.setRegs_keys (v : Vector Byte 16) : (s.setRegs v).keys = s.keys := rfl
@[simp] theorem State.setRegs_redraw (v : Vector Byte 16) : (s.setRegs v).redraw = s.redraw := rfl
@[simp] theorem State.setRegs_err (v : Vector Byte 16) : (s.setRegs v).err = s.err := rfl
@[simp] theorem State.setRegs_rndIn (v : Vector Byte 16) : (s.setRegs v).rndIn = s.rndIn := rfl
@[simp] theorem State.setRegs_rndCount (v : Vector Byte 16) : (s.setRegs v).rndCount = s.rndCount := rfl
@[simp] theorem State.setRegs_params (v : Vector Byte 16) : (s.setRegs v).params = s.params := rfl
@[simp] theorem State.setRegs_readMem (v : Vector Byte 16) (a' : Nat) :
    (s.setRegs v).readMem a' = s.readMem a' := rfl
@[simp] theorem State.setRegs_pixel (v : Vector Byte 16) (px : Column) (py : Row) :
    (s.setRegs v).pixel px py = s.pixel px py := rfl
@[simp] theorem State.setRegs_key (v : Vector Byte 16) (j : Key) : (s.setRegs v).key j = s.key j := rfl
@[simp] theorem State.setRegs_sp (v : Vector Byte 16) : (s.setRegs v).sp = s.sp := rfl
@[simp] theorem State.setRegs_base (v : Vector Byte 16) : (s.setRegs v).base = s.base := rfl

/-! ### `setI` -/

@[simp] theorem State.setI_v (a : Word) : (s.setI a).v = s.v := rfl
@[simp] theorem State.setI_i (a : Word) : (s.setI a).i = a := rfl
@[simp] theorem State.setI_pc (a : Word) : (s.setI a).pc = s.pc := rfl
@[simp] theorem State.setI_dt (a : Word) : (s.setI a).dt = s.dt := rfl
@[simp] theorem State.setI_st (a : Word) : (s.setI a).st = s.st := rfl
@[simp] theorem State.setI_stack (a : Word) : (s.setI a).stack = s.stack := rfl
@[simp] theorem State.setI_mem (a : Word) : (s.setI a).mem = s.mem := rfl
@[simp] theorem State.setI_fb (a : Word) : (s.setI a).fb = s.fb := rfl
@[simp] theorem State.setI_keys (a : Word) : (s.setI a).keys = s.keys := rfl
@[simp] theorem State.setI_redraw (a : Word) : (s.setI a).redraw = s.redraw := rfl
@[simp] theorem State.setI_err (a : Word) : (s.setI a).err = s.err := rfl
@[simp] theorem State.setI_rndIn (a : Word) : (s.setI a).rndIn = s.rndIn := rfl
@[simp] theorem State.setI_rndCount (a : Word) : (s.setI a).rndCount = s.rndCount := rfl
@[simp] theorem State.setI_params (a : Word) : (s.setI a).params = s.params := rfl
@[simp] theorem State.setI_readV (a : Word) (y : Reg) : (s.setI a).readV y = s.readV y := rfl
@[simp] theorem State.setI_readMem (a : Word) (a' : Nat) : (s.setI a).readMem a' = s.readMem a' := rfl
@[simp] theorem State.setI_pixel (a : Word) (px : Column) (py : Row) :
    (s.setI a).pixel px py = s.pixel px py := rfl
@[simp] theorem State.setI_key (a : Word) (j : Key) : (s.setI a).key j = s.key j := rfl
@[simp] theorem State.setI_sp (a : Word) : (s.setI a).sp = s.sp := rfl

/-! ### `setPc` -/

@[simp] theorem State.setPc_v (a : Word) : (s.setPc a).v = s.v := rfl
@[simp] theorem State.setPc_i (a : Word) : (s.setPc a).i = s.i := rfl
@[simp] theorem State.setPc_pc (a : Word) : (s.setPc a).pc = a := rfl
@[simp] theorem State.setPc_dt (a : Word) : (s.setPc a).dt = s.dt := rfl
@[simp] theorem State.setPc_st (a : Word) : (s.setPc a).st = s.st := rfl
@[simp] theorem State.setPc_stack (a : Word) : (s.setPc a).stack = s.stack := rfl
@[simp] theorem State.setPc_mem (a : Word) : (s.setPc a).mem = s.mem := rfl
@[simp] theorem State.setPc_fb (a : Word) : (s.setPc a).fb = s.fb := rfl
@[simp] theorem State.setPc_keys (a : Word) : (s.setPc a).keys = s.keys := rfl
@[simp] theorem State.setPc_redraw (a : Word) : (s.setPc a).redraw = s.redraw := rfl
@[simp] theorem State.setPc_err (a : Word) : (s.setPc a).err = s.err := rfl
@[simp] theorem State.setPc_rndIn (a : Word) : (s.setPc a).rndIn = s.rndIn := rfl
@[simp] theorem State.setPc_rndCount (a : Word) : (s.setPc a).rndCount = s.rndCount := rfl
@[simp] theorem State.setPc_params (a : Word) : (s.setPc a).params = s.params := rfl
@[simp] theorem State.setPc_readV (a : Word) (y : Reg) : (s.setPc a).readV y = s.readV y := rfl
@[simp] theorem State.setPc_readMem (a : Word) (a' : Nat) : (s.setPc a).readMem a' = s.readMem a' := rfl
@[simp] theorem State.setPc_pixel (a : Word) (px : Column) (py : Row) :
    (s.setPc a).pixel px py = s.pixel px py := rfl
@[simp] theorem State.setPc_key (a : Word) (j : Key) : (s.setPc a).key j = s.key j := rfl
@[simp] theorem State.setPc_sp (a : Word) : (s.setPc a).sp = s.sp := rfl
@[simp] theorem State.setPc_base (a : Word) : (s.setPc a).base = s.base := rfl

/-! ### `setDt` -/

@[simp] theorem State.setDt_v (b : Byte) : (s.setDt b).v = s.v := rfl
@[simp] theorem State.setDt_i (b : Byte) : (s.setDt b).i = s.i := rfl
@[simp] theorem State.setDt_pc (b : Byte) : (s.setDt b).pc = s.pc := rfl
@[simp] theorem State.setDt_dt (b : Byte) : (s.setDt b).dt = b := rfl
@[simp] theorem State.setDt_st (b : Byte) : (s.setDt b).st = s.st := rfl
@[simp] theorem State.setDt_stack (b : Byte) : (s.setDt b).stack = s.stack := rfl
@[simp] theorem State.setDt_mem (b : Byte) : (s.setDt b).mem = s.mem := rfl
@[simp] theorem State.setDt_fb (b : Byte) : (s.setDt b).fb = s.fb := rfl
@[simp] theorem State.setDt_keys (b : Byte) : (s.setDt b).keys = s.keys := rfl
@[simp] theorem State.setDt_redraw (b : Byte) : (s.setDt b).redraw = s.redraw := rfl
@[simp] theorem State.setDt_err (b : Byte) : (s.setDt b).err = s.err := rfl
@[simp] theorem State.setDt_rndIn (b : Byte) : (s.setDt b).rndIn = s.rndIn := rfl
@[simp] theorem State.setDt_rndCount (b : Byte) : (s.setDt b).rndCount = s.rndCount := rfl
@[simp] theorem State.setDt_params (b : Byte) : (s.setDt b).params = s.params := rfl
@[simp] theorem State.setDt_readV (b : Byte) (y : Reg) : (s.setDt b).readV y = s.readV y := rfl
@[simp] theorem State.setDt_readMem (b : Byte) (a' : Nat) : (s.setDt b).readMem a' = s.readMem a' := rfl
@[simp] theorem State.setDt_pixel (b : Byte) (px : Column) (py : Row) :
    (s.setDt b).pixel px py = s.pixel px py := rfl
@[simp] theorem State.setDt_key (b : Byte) (j : Key) : (s.setDt b).key j = s.key j := rfl
@[simp] theorem State.setDt_sp (b : Byte) : (s.setDt b).sp = s.sp := rfl
@[simp] theorem State.setDt_base (b : Byte) : (s.setDt b).base = s.base := rfl

/-! ### `setSt` -/

@[simp] theorem State.setSt_v (b : Byte) : (s.setSt b).v = s.v := rfl
@[simp] theorem State.setSt_i (b : Byte) : (s.setSt b).i = s.i := rfl
@[simp] theorem State.setSt_pc (b : Byte) : (s.setSt b).pc = s.pc := rfl
@[simp] theorem State.setSt_dt (b : Byte) : (s.setSt b).dt = s.dt := rfl
@[simp] theorem State.setSt_st (b : Byte) : (s.setSt b).st = b := rfl
@[simp] theorem State.setSt_stack (b : Byte) : (s.setSt b).stack = s.stack := rfl
@[simp] theorem State.setSt_mem (b : Byte) : (s.setSt b).mem = s.mem := rfl
@[simp] theorem State.setSt_fb (b : Byte) : (s.setSt b).fb = s.fb := rfl
@[simp] theorem State.setSt_keys (b : Byte) : (s.setSt b).keys = s.keys := rfl
@[simp] theorem State.setSt_redraw (b : Byte) : (s.setSt b).redraw = s.redraw := rfl
@[simp] theorem State.setSt_err (b : Byte) : (s.setSt b).err = s.err := rfl
@[simp] theorem State.setSt_rndIn (b : Byte) : (s.setSt b).rndIn = s.rndIn := rfl
@[simp] theorem State.setSt_rndCount (b : Byte) : (s.setSt b).rndCount = s.rndCount := rfl
@[simp] theorem State.setSt_params (b : Byte) : (s.setSt b).params = s.params := rfl
@[simp] theorem State.setSt_readV (b : Byte) (y : Reg) : (s.setSt b).readV y = s.readV y := rfl
@[simp] theorem State.setSt_readMem (b : Byte) (a' : Nat) : (s.setSt b).readMem a' = s.readMem a' := rfl
@[simp] theorem State.setSt_pixel (b : Byte) (px : Column) (py : Row) :
    (s.setSt b).pixel px py = s.pixel px py := rfl
@[simp] theorem State.setSt_key (b : Byte) (j : Key) : (s.setSt b).key j = s.key j := rfl
@[simp] theorem State.setSt_sp (b : Byte) : (s.setSt b).sp = s.sp := rfl
@[simp] theorem State.setSt_base (b : Byte) : (s.setSt b).base = s.base := rfl

/-! ### `setStack` -/

@[simp] theorem State.setStack_v (l : List Word) : (s.setStack l).v = s.v := rfl
@[simp] theorem State.setStack_i (l : List Word) : (s.setStack l).i = s.i := rfl
@[simp] theorem State.setStack_pc (l : List Word) : (s.setStack l).pc = s.pc := rfl
@[simp] theorem State.setStack_dt (l : List Word) : (s.setStack l).dt = s.dt := rfl
@[simp] theorem State.setStack_st (l : List Word) : (s.setStack l).st = s.st := rfl
@[simp] theorem State.setStack_stack (l : List Word) : (s.setStack l).stack = l := rfl
@[simp] theorem State.setStack_mem (l : List Word) : (s.setStack l).mem = s.mem := rfl
@[simp] theorem State.setStack_fb (l : List Word) : (s.setStack l).fb = s.fb := rfl
@[simp] theorem State.setStack_keys (l : List Word) : (s.setStack l).keys = s.keys := rfl
@[simp] theorem State.setStack_redraw (l : List Word) : (s.setStack l).redraw = s.redraw := rfl
@[simp] theorem State.setStack_err (l : List Word) : (s.setStack l).err = s.err := rfl
@[simp] theorem State.setStack_rndIn (l : List Word) : (s.setStack l).rndIn = s.rndIn := rfl
@[simp] theorem State.setStack_rndCount (l : List Word) : (s.setStack l).rndCount = s.rndCount := rfl
@[simp] theorem State.setStack_params (l : List Word) : (s.setStack l).params = s.params := rfl
@[simp] theorem State.setStack_readV (l : List Word) (y : Reg) : (s.setStack l).readV y = s.readV y := rfl
@[simp] theorem State.setStack_readMem (l : List Word) (a' : Nat) :
    (s.setStack l).readMem a' = s.readMem a' := rfl
@[simp] theorem State.setStack_pixel (l : List Word) (px : Column) (py : Row) :
    (s.setStack l).pixel px py = s.pixel px py := rfl
@[simp] theorem State.setStack_key (l : List Word) (j : Key) : (s.setStack l).key j = s.key j := rfl
@[simp] theorem State.setStack_base (l : List Word) : (s.setStack l).base = s.base := rfl

/-! ### `storeBytes` -/

@[simp] theorem State.storeBytes_v (a : Nat) (bs : List Byte) : (s.storeBytes a bs).v = s.v := rfl
@[simp] theorem State.storeBytes_i (a : Nat) (bs : List Byte) : (s.storeBytes a bs).i = s.i := rfl
@[simp] theorem State.storeBytes_pc (a : Nat) (bs : List Byte) : (s.storeBytes a bs).pc = s.pc := rfl
@[simp] theorem State.storeBytes_dt (a : Nat) (bs : List Byte) : (s.storeBytes a bs).dt = s.dt := rfl
@[simp] theorem State.storeBytes_st (a : Nat) (bs : List Byte) : (s.storeBytes a bs).st = s.st := rfl
@[simp] theorem State.storeBytes_stack (a : Nat) (bs : List Byte) : (s.storeBytes a bs).stack = s.stack := rfl
@[simp] theorem State.storeBytes_mem (a : Nat) (bs : List Byte) :
    (s.storeBytes a bs).mem = s.mem.writeBytes a bs := rfl
@[simp] theorem State.storeBytes_fb (a : Nat) (bs : List Byte) : (s.storeBytes a bs).fb = s.fb := rfl
@[simp] theorem State.storeBytes_keys (a : Nat) (bs : List Byte) : (s.storeBytes a bs).keys = s.keys := rfl
@[simp] theorem State.storeBytes_redraw (a : Nat) (bs : List Byte) :
    (s.storeBytes a bs).redraw = s.redraw := rfl
@[simp] theorem State.storeBytes_err (a : Nat) (bs : List Byte) : (s.storeBytes a bs).err = s.err := rfl
@[simp] theorem State.storeBytes_rndIn (a : Nat) (bs : List Byte) : (s.storeBytes a bs).rndIn = s.rndIn := rfl
@[simp] theorem State.storeBytes_rndCount (a : Nat) (bs : List Byte) :
    (s.storeBytes a bs).rndCount = s.rndCount := rfl
@[simp] theorem State.storeBytes_params (a : Nat) (bs : List Byte) :
    (s.storeBytes a bs).params = s.params := rfl
@[simp] theorem State.storeBytes_readV (a : Nat) (bs : List Byte) (y : Reg) :
    (s.storeBytes a bs).readV y = s.readV y := rfl
@[simp] theorem State.storeBytes_pixel (a : Nat) (bs : List Byte) (px : Column) (py : Row) :
    (s.storeBytes a bs).pixel px py = s.pixel px py := rfl
@[simp] theorem State.storeBytes_key (a : Nat) (bs : List Byte) (j : Key) :
    (s.storeBytes a bs).key j = s.key j := rfl
@[simp] theorem State.storeBytes_sp (a : Nat) (bs : List Byte) : (s.storeBytes a bs).sp = s.sp := rfl
@[simp] theorem State.storeBytes_base (a : Nat) (bs : List Byte) : (s.storeBytes a bs).base = s.base := rfl

/-! ### `setFb` -/

@[simp] theorem State.setFb_v (fb : Framebuffer) : (s.setFb fb).v = s.v := rfl
@[simp] theorem State.setFb_i (fb : Framebuffer) : (s.setFb fb).i = s.i := rfl
@[simp] theorem State.setFb_pc (fb : Framebuffer) : (s.setFb fb).pc = s.pc := rfl
@[simp] theorem State.setFb_dt (fb : Framebuffer) : (s.setFb fb).dt = s.dt := rfl
@[simp] theorem State.setFb_st (fb : Framebuffer) : (s.setFb fb).st = s.st := rfl
@[simp] theorem State.setFb_stack (fb : Framebuffer) : (s.setFb fb).stack = s.stack := rfl
@[simp] theorem State.setFb_mem (fb : Framebuffer) : (s.setFb fb).mem = s.mem := rfl
@[simp] theorem State.setFb_fb (fb : Framebuffer) : (s.setFb fb).fb = fb := rfl
@[simp] theorem State.setFb_keys (fb : Framebuffer) : (s.setFb fb).keys = s.keys := rfl
@[simp] theorem State.setFb_redraw (fb : Framebuffer) : (s.setFb fb).redraw = s.redraw := rfl
@[simp] theorem State.setFb_err (fb : Framebuffer) : (s.setFb fb).err = s.err := rfl
@[simp] theorem State.setFb_rndIn (fb : Framebuffer) : (s.setFb fb).rndIn = s.rndIn := rfl
@[simp] theorem State.setFb_rndCount (fb : Framebuffer) : (s.setFb fb).rndCount = s.rndCount := rfl
@[simp] theorem State.setFb_params (fb : Framebuffer) : (s.setFb fb).params = s.params := rfl
@[simp] theorem State.setFb_readV (fb : Framebuffer) (y : Reg) : (s.setFb fb).readV y = s.readV y := rfl
@[simp] theorem State.setFb_readMem (fb : Framebuffer) (a' : Nat) :
    (s.setFb fb).readMem a' = s.readMem a' := rfl
@[simp] theorem State.setFb_key (fb : Framebuffer) (j : Key) : (s.setFb fb).key j = s.key j := rfl
@[simp] theorem State.setFb_sp (fb : Framebuffer) : (s.setFb fb).sp = s.sp := rfl
@[simp] theorem State.setFb_base (fb : Framebuffer) : (s.setFb fb).base = s.base := rfl

/-! ### `writeKey` -/

@[simp] theorem State.writeKey_v (k : Key) (b : Bool) : (s.writeKey k b).v = s.v := rfl
@[simp] theorem State.writeKey_i (k : Key) (b : Bool) : (s.writeKey k b).i = s.i := rfl
@[simp] theorem State.writeKey_pc (k : Key) (b : Bool) : (s.writeKey k b).pc = s.pc := rfl
@[simp] theorem State.writeKey_dt (k : Key) (b : Bool) : (s.writeKey k b).dt = s.dt := rfl
@[simp] theorem State.writeKey_st (k : Key) (b : Bool) : (s.writeKey k b).st = s.st := rfl
@[simp] theorem State.writeKey_stack (k : Key) (b : Bool) : (s.writeKey k b).stack = s.stack := rfl
@[simp] theorem State.writeKey_mem (k : Key) (b : Bool) : (s.writeKey k b).mem = s.mem := rfl
@[simp] theorem State.writeKey_fb (k : Key) (b : Bool) : (s.writeKey k b).fb = s.fb := rfl
@[simp] theorem State.writeKey_keys (k : Key) (b : Bool) : (s.writeKey k b).keys = s.keys.set k.val b := rfl
@[simp] theorem State.writeKey_redraw (k : Key) (b : Bool) : (s.writeKey k b).redraw = s.redraw := rfl
@[simp] theorem State.writeKey_err (k : Key) (b : Bool) : (s.writeKey k b).err = s.err := rfl
@[simp] theorem State.writeKey_rndIn (k : Key) (b : Bool) : (s.writeKey k b).rndIn = s.rndIn := rfl
@[simp] theorem State.writeKey_rndCount (k : Key) (b : Bool) : (s.writeKey k b).rndCount = s.rndCount := rfl
@[simp] theorem State.writeKey_params (k : Key) (b : Bool) : (s.writeKey k b).params = s.params := rfl
@[simp] theorem State.writeKey_readV (k : Key) (b : Bool) (y : Reg) :
    (s.writeKey k b).readV y = s.readV y := rfl
@[simp] theorem State.writeKey_readMem (k : Key) (b : Bool) (a' : Nat) :
    (s.writeKey k b).readMem a' = s.readMem a' := rfl
@[simp] theorem State.writeKey_pixel (k : Key) (b : Bool) (px : Column) (py : Row) :
    (s.writeKey k b).pixel px py = s.pixel px py := rfl
@[simp] theorem State.writeKey_sp (k : Key) (b : Bool) : (s.writeKey k b).sp = s.sp := rfl
@[simp] theorem State.writeKey_base (k : Key) (b : Bool) : (s.writeKey k b).base = s.base := rfl

/-! ### `setRedraw` -/

@[simp] theorem State.setRedraw_v (b : Bool) : (s.setRedraw b).v = s.v := rfl
@[simp] theorem State.setRedraw_i (b : Bool) : (s.setRedraw b).i = s.i := rfl
@[simp] theorem State.setRedraw_pc (b : Bool) : (s.setRedraw b).pc = s.pc := rfl
@[simp] theorem State.setRedraw_dt (b : Bool) : (s.setRedraw b).dt = s.dt := rfl
@[simp] theorem State.setRedraw_st (b : Bool) : (s.setRedraw b).st = s.st := rfl
@[simp] theorem State.setRedraw_stack (b : Bool) : (s.setRedraw b).stack = s.stack := rfl
@[simp] theorem State.setRedraw_mem (b : Bool) : (s.setRedraw b).mem = s.mem := rfl
@[simp] theorem State.setRedraw_fb (b : Bool) : (s.setRedraw b).fb = s.fb := rfl
@[simp] theorem State.setRedraw_keys (b : Bool) : (s.setRedraw b).keys = s.keys := rfl
@[simp] theorem State.setRedraw_redraw (b : Bool) : (s.setRedraw b).redraw = b := rfl
@[simp] theorem State.setRedraw_err (b : Bool) : (s.setRedraw b).err = s.err := rfl
@[simp] theorem State.setRedraw_rndIn (b : Bool) : (s.setRedraw b).rndIn = s.rndIn := rfl
@[simp] theorem State.setRedraw_rndCount (b : Bool) : (s.setRedraw b).rndCount = s.rndCount := rfl
@[simp] theorem State.setRedraw_params (b : Bool) : (s.setRedraw b).params = s.params := rfl
@[simp] theorem State.setRedraw_readV (b : Bool) (y : Reg) : (s.setRedraw b).readV y = s.readV y := rfl
@[simp] theorem State.setRedraw_readMem (b : Bool) (a' : Nat) : (s.setRedraw b).readMem a' = s.readMem a' := rfl
@[simp] theorem State.setRedraw_pixel (b : Bool) (px : Column) (py : Row) :
    (s.setRedraw b).pixel px py = s.pixel px py := rfl
@[simp] theorem State.setRedraw_key (b : Bool) (j : Key) : (s.setRedraw b).key j = s.key j := rfl
@[simp] theorem State.setRedraw_sp (b : Bool) : (s.setRedraw b).sp = s.sp := rfl
@[simp] theorem State.setRedraw_base (b : Bool) : (s.setRedraw b).base = s.base := rfl

/-! ### `setErr` -/

@[simp] theorem State.setErr_v (e : Option FatalError) : (s.setErr e).v = s.v := rfl
@[simp] theorem State.setErr_i (e : Option FatalError) : (s.setErr e).i = s.i := rfl
@[simp] theorem State.setErr_pc (e : Option FatalError) : (s.setErr e).pc = s.pc := rfl
@[simp] theorem State.setErr_dt (e : Option FatalError) : (s.setErr e).dt = s.dt := rfl
@[simp] theorem State.setErr_st (e : Option FatalError) : (s.setErr e).st = s.st := rfl
@[simp] theorem State.setErr_stack (e : Option FatalError) : (s.setErr e).stack = s.stack := rfl
@[simp] theorem State.setErr_mem (e : Option FatalError) : (s.setErr e).mem = s.mem := rfl
@[simp] theorem State.setErr_fb (e : Option FatalError) : (s.setErr e).fb = s.fb := rfl
@[simp] theorem State.setErr_keys (e : Option FatalError) : (s.setErr e).keys = s.keys := rfl
@[simp] theorem State.setErr_redraw (e : Option FatalError) : (s.setErr e).redraw = s.redraw := rfl
@[simp] theorem State.setErr_err (e : Option FatalError) : (s.setErr e).err = e := rfl
@[simp] theorem State.setErr_rndIn (e : Option FatalError) : (s.setErr e).rndIn = s.rndIn := rfl
@[simp] theorem State.setErr_rndCount (e : Option FatalError) : (s.setErr e).rndCount = s.rndCount := rfl
@[simp] theorem State.setErr_params (e : Option FatalError) : (s.setErr e).params = s.params := rfl
@[simp] theorem State.setErr_readV (e : Option FatalError) (y : Reg) : (s.setErr e).readV y = s.readV y := rfl
@[simp] theorem State.setErr_readMem (e : Option FatalError) (a' : Nat) :
    (s.setErr e).readMem a' = s.readMem a' := rfl
@[simp] theorem State.setErr_pixel (e : Option FatalError) (px : Column) (py : Row) :
    (s.setErr e).pixel px py = s.pixel px py := rfl
@[simp] theorem State.setErr_key (e : Option FatalError) (j : Key) : (s.setErr e).key j = s.key j := rfl
@[simp] theorem State.setErr_sp (e : Option FatalError) : (s.setErr e).sp = s.sp := rfl
@[simp] theorem State.setErr_base (e : Option FatalError) : (s.setErr e).base = s.base := rfl

/-! ### `supplyRnd` -/

@[simp] theorem State.supplyRnd_v (b : Byte) : (s.supplyRnd b).v = s.v := rfl
@[simp] theorem State.supplyRnd_i (b : Byte) : (s.supplyRnd b).i = s.i := rfl
@[simp] theorem State.supplyRnd_pc (b : Byte) : (s.supplyRnd b).pc = s.pc := rfl
@[simp] theorem State.supplyRnd_dt (b : Byte) : (s.supplyRnd b).dt = s.dt := rfl
@[simp] theorem State.supplyRnd_st (b : Byte) : (s.supplyRnd b).st = s.st := rfl
@[simp] theorem State.supplyRnd_stack (b : Byte) : (s.supplyRnd b).stack = s.stack := rfl
@[simp] theorem State.supplyRnd_mem (b : Byte) : (s.supplyRnd b).mem = s.mem := rfl
@[simp] theorem State.supplyRnd_fb (b : Byte) : (s.supplyRnd b).fb = s.fb := rfl
@[simp] theorem State.supplyRnd_keys (b : Byte) : (s.supplyRnd b).keys = s.keys := rfl
@[simp] theorem State.supplyRnd_redraw (b : Byte) : (s.supplyRnd b).redraw = s.redraw := rfl
@[simp] theorem State.supplyRnd_err (b : Byte) : (s.supplyRnd b).err = s.err := rfl
@[simp] theorem State.supplyRnd_rndIn (b : Byte) : (s.supplyRnd b).rndIn = b :: s.rndIn := rfl
@[simp] theorem State.supplyRnd_rndCount (b : Byte) : (s.supplyRnd b).rndCount = s.rndCount := rfl
@[simp] theorem State.supplyRnd_params (b : Byte) : (s.supplyRnd b).params = s.params := rfl
@[simp] theorem State.supplyRnd_readV (b : Byte) (y : Reg) : (s.supplyRnd b).readV y = s.readV y := rfl
@[simp] theorem State.supplyRnd_readMem (b : Byte) (a' : Nat) : (s.supplyRnd b).readMem a' = s.readMem a' := rfl
@[simp] theorem State.supplyRnd_pixel (b : Byte) (px : Column) (py : Row) :
    (s.supplyRnd b).pixel px py = s.pixel px py := rfl
@[simp] theorem State.supplyRnd_key (b : Byte) (j : Key) : (s.supplyRnd b).key j = s.key j := rfl
@[simp] theorem State.supplyRnd_sp (b : Byte) : (s.supplyRnd b).sp = s.sp := rfl
@[simp] theorem State.supplyRnd_base (b : Byte) : (s.supplyRnd b).base = s.base := rfl

/-! ### `restoreRnd` -/

@[simp] theorem State.restoreRnd_v (bs : List Byte) : (s.restoreRnd bs).v = s.v := rfl
@[simp] theorem State.restoreRnd_i (bs : List Byte) : (s.restoreRnd bs).i = s.i := rfl
@[simp] theorem State.restoreRnd_pc (bs : List Byte) : (s.restoreRnd bs).pc = s.pc := rfl
@[simp] theorem State.restoreRnd_dt (bs : List Byte) : (s.restoreRnd bs).dt = s.dt := rfl
@[simp] theorem State.restoreRnd_st (bs : List Byte) : (s.restoreRnd bs).st = s.st := rfl
@[simp] theorem State.restoreRnd_stack (bs : List Byte) : (s.restoreRnd bs).stack = s.stack := rfl
@[simp] theorem State.restoreRnd_mem (bs : List Byte) : (s.restoreRnd bs).mem = s.mem := rfl
@[simp] theorem State.restoreRnd_fb (bs : List Byte) : (s.restoreRnd bs).fb = s.fb := rfl
@[simp] theorem State.restoreRnd_keys (bs : List Byte) : (s.restoreRnd bs).keys = s.keys := rfl
@[simp] theorem State.restoreRnd_redraw (bs : List Byte) : (s.restoreRnd bs).redraw = s.redraw := rfl
@[simp] theorem State.restoreRnd_err (bs : List Byte) : (s.restoreRnd bs).err = s.err := rfl
@[simp] theorem State.restoreRnd_rndIn (bs : List Byte) : (s.restoreRnd bs).rndIn = bs := rfl
@[simp] theorem State.restoreRnd_rndCount (bs : List Byte) : (s.restoreRnd bs).rndCount = s.rndCount := rfl
@[simp] theorem State.restoreRnd_params (bs : List Byte) : (s.restoreRnd bs).params = s.params := rfl
@[simp] theorem State.restoreRnd_readV (bs : List Byte) (y : Reg) : (s.restoreRnd bs).readV y = s.readV y := rfl
@[simp] theorem State.restoreRnd_readMem (bs : List Byte) (a' : Nat) :
    (s.restoreRnd bs).readMem a' = s.readMem a' := rfl
@[simp] theorem State.restoreRnd_pixel (bs : List Byte) (px : Column) (py : Row) :
    (s.restoreRnd bs).pixel px py = s.pixel px py := rfl
@[simp] theorem State.restoreRnd_key (bs : List Byte) (j : Key) : (s.restoreRnd bs).key j = s.key j := rfl
@[simp] theorem State.restoreRnd_sp (bs : List Byte) : (s.restoreRnd bs).sp = s.sp := rfl
@[simp] theorem State.restoreRnd_base (bs : List Byte) : (s.restoreRnd bs).base = s.base := rfl

/-! ### `advancePc` -/

@[simp] theorem State.advancePc_pc : s.advancePc.pc = s.pc + 2 := rfl
@[simp] theorem State.advancePc_v : s.advancePc.v = s.v := rfl
@[simp] theorem State.advancePc_i : s.advancePc.i = s.i := rfl
@[simp] theorem State.advancePc_dt : s.advancePc.dt = s.dt := rfl
@[simp] theorem State.advancePc_st : s.advancePc.st = s.st := rfl
@[simp] theorem State.advancePc_stack : s.advancePc.stack = s.stack := rfl
@[simp] theorem State.advancePc_mem : s.advancePc.mem = s.mem := rfl
@[simp] theorem State.advancePc_fb : s.advancePc.fb = s.fb := rfl
@[simp] theorem State.advancePc_keys : s.advancePc.keys = s.keys := rfl
@[simp] theorem State.advancePc_redraw : s.advancePc.redraw = s.redraw := rfl
@[simp] theorem State.advancePc_err : s.advancePc.err = s.err := rfl
@[simp] theorem State.advancePc_rndIn : s.advancePc.rndIn = s.rndIn := rfl
@[simp] theorem State.advancePc_rndCount : s.advancePc.rndCount = s.rndCount := rfl
@[simp] theorem State.advancePc_params : s.advancePc.params = s.params := rfl
@[simp] theorem State.advancePc_sp : s.advancePc.sp = s.sp := rfl
@[simp] theorem State.advancePc_base : s.advancePc.base = s.base := rfl
@[simp] theorem State.advancePc_readV (y : Reg) : s.advancePc.readV y = s.readV y := rfl
@[simp] theorem State.advancePc_readMem (a : Nat) : s.advancePc.readMem a = s.readMem a := rfl
@[simp] theorem State.advancePc_pixel (x : Column) (y : Row) : s.advancePc.pixel x y = s.pixel x y := rfl
@[simp] theorem State.advancePc_key (k : Key) : s.advancePc.key k = s.key k := rfl

/-! ### Reads of the element an update writes -/

@[simp] theorem State.writeV_readV (x y : Reg) (b : Byte) :
    (s.writeV x b).readV y = if y = x then b else s.readV y := by
  simp only [State.readV, State.writeV_v, Vector.getElem_set, Fin.ext_iff, eq_comm]

@[simp] theorem State.setRegs_readV (v : Vector Byte 16) (y : Reg) :
    (s.setRegs v).readV y = v[y.val] := rfl

@[simp] theorem State.setI_base (a : Word) : (s.setI a).base = a.toNat := rfl

@[simp] theorem State.setStack_sp (l : List Word) : (s.setStack l).sp = l.length := rfl

@[simp] theorem State.setFb_pixel (fb : Framebuffer) (x : Column) (y : Row) :
    (s.setFb fb).pixel x y = fb[x.val][y.val] := rfl

@[simp] theorem State.writeKey_key (k j : Key) (b : Bool) :
    (s.writeKey k b).key j = if j = k then b else s.key j := by
  simp only [State.key, State.writeKey_keys, Vector.getElem_set, Fin.ext_iff, eq_comm]

@[simp] theorem State.storeBytes_readMem (a : Nat) (bs : List Byte) (a' : Nat) :
    (s.storeBytes a bs).readMem a' = (s.mem.writeBytes a bs).read a' := rfl

@[simp] theorem State.blankDisplay_pixel (x : Column) (y : Row) :
    (Config.blankDisplay)[x.val][y.val] = false := by
  simp [Config.blankDisplay]

/-! ### Operations made of updates -/

theorem State.advancePc_eq : s.advancePc = s.setPc (s.pc + 2) := rfl

theorem State.rewindPc_eq : s.rewindPc = s.setPc (s.pc - 2) := rfl

theorem State.rewindPc_advancePc : s.advancePc.rewindPc = s := by
  simp [State.advancePc, State.rewindPc, State.setPc]

theorem State.skipIf_eq (c : Bool) : s.skipIf c = s.setPc (if c then s.pc + 2 else s.pc) := by
  cases c <;> rfl

theorem State.bumpI_eq (x : Reg) : s.bumpI x = s.setI (s.i + BitVec.ofNat 16 (x.val + 1)) := rfl

/-- Taking a random byte leaves every element but the supply of random bytes. -/
theorem State.takeRnd_eq :
    s.takeRnd = { s with rndIn := s.takeRnd.rndIn, rndCount := s.takeRnd.rndCount } := by
  unfold State.takeRnd
  split <;> rfl

theorem State.regsFromMem_get (x : Reg) (a : Nat) (k : Reg) :
    (s.regsFromMem x a)[k.val] = if k ≤ x then s.readMem (a + k.val) else s.readV k := by
  simp [State.regsFromMem]

theorem State.regsUpTo_length (x : Reg) : (s.regsUpTo x).length = x.val + 1 := by
  simp only [State.regsUpTo, List.length_take, Vector.length_toList]
  omega

theorem State.regsUpTo_get (x k : Reg) (hk : k.val < (s.regsUpTo x).length) :
    (s.regsUpTo x)[k.val] = s.readV k := by
  simp [State.regsUpTo, State.readV]

end Sys2Proof.Machine
end

