-- ==== Sys2Proof/Laws/Display.lean ====
section
/-! SUPPORT. What drawing does, operation by operation: a toggle, a row of a sprite, a sprite (R140, R142). -/

namespace Sys2Proof.Machine

/-- The pixel `(x, y)` of a display. -/
def pixelOf (fb : Framebuffer) (x : Column) (y : Row) : Bool := fb[x.val][y.val]

/-- A toggle flips its own pixel and leaves the others. -/
theorem Drawing.toggle_pixel (d : Drawing) (x px : Column) (y py : Row) :
    pixelOf (d.toggle x y).fb px py =
      ((pixelOf d.fb px py) ^^ decide (px = x ∧ py = y)) := by
  simp only [pixelOf, Drawing.toggle, Vector.getElem_set]
  by_cases hx : x = px
  · subst hx
    by_cases hy : y = py
    · subst hy
      simp
    · have : ¬ y.val = py.val := fun h => hy (Fin.ext h)
      simp [this, Ne.symm hy]
  · have : ¬ x.val = px.val := fun h => hx (Fin.ext h)
    simp [this, Ne.symm hx]

theorem Drawing.toggle_hit (d : Drawing) (x : Column) (y : Row) :
    (d.toggle x y).hit = (d.hit || pixelOf d.fb x y) := rfl

/-- Toggles of pairwise different pixels, one after another: each pixel among them is flipped, and there is a
hit exactly when there was one before or one of them was set. -/
theorem Drawing.toggles {α : Type} (fx : α → Column) (fy : α → Row) (l : List α)
    (hl : l.Pairwise fun a b => ¬ (fx a = fx b ∧ fy a = fy b)) (d : Drawing) :
    (∀ px py, pixelOf (l.foldl (fun d a => d.toggle (fx a) (fy a)) d).fb px py =
      ((pixelOf d.fb px py) ^^ decide (∃ a ∈ l, px = fx a ∧ py = fy a))) ∧
    ((l.foldl (fun d a => d.toggle (fx a) (fy a)) d).hit = true ↔
      d.hit = true ∨ ∃ a ∈ l, pixelOf d.fb (fx a) (fy a) = true) := by
  induction l generalizing d with
  | nil => simp
  | cons a l ih =>
    obtain ⟨ha, hl⟩ := List.pairwise_cons.1 hl
    obtain ⟨ihp, ihh⟩ := ih hl (d.toggle (fx a) (fy a))
    refine ⟨fun px py => ?_, ?_⟩
    · simp only [List.foldl_cons, ihp, Drawing.toggle_pixel, List.mem_cons, exists_eq_or_imp]
      by_cases h : px = fx a ∧ py = fy a
      · obtain ⟨rfl, rfl⟩ := h
        have hno : ¬ ∃ b ∈ l, fx a = fx b ∧ fy a = fy b := fun ⟨b, hb, h⟩ => ha b hb h
        simp [hno]
      · simp [h]
    · simp only [List.foldl_cons, ihh, Drawing.toggle_hit, List.mem_cons, exists_eq_or_imp,
        Bool.or_eq_true, or_assoc]
      refine or_congr_right (or_congr_right ?_)
      refine exists_congr fun b => and_congr_right fun hb => ?_
      have h : ¬ (fx b = fx a ∧ fy b = fy a) := fun ⟨h1, h2⟩ => ha b hb ⟨h1.symm, h2.symm⟩
      simp [Drawing.toggle_pixel, h]

/-- The sprite bits, in drawing order, that are set: row and column of each. -/
def spriteBits (m : Memory) (base n : Nat) : List (Nat × Nat) :=
  (List.range n).flatMap fun r =>
    ((List.range 8).filter fun c => spriteBit (m.read (base + r)) c).map fun c => (r, c)

/-- Drawing a sprite is toggling the pixel of each set bit, row by row, column by column. -/
theorem Drawing.sprite_eq_toggles (d : Drawing) (m : Memory) (base x0 y0 n : Nat) :
    d.sprite m base x0 y0 n =
      (spriteBits m base n).foldl
        (fun d rc => d.toggle (wrapColumn (x0 + rc.2)) (wrapRow (y0 + rc.1))) d := by
  have hrow : ∀ (d : Drawing) (b : Byte) (y : Row), d.row b x0 y =
      ((List.range 8).filter fun c => spriteBit b c).foldl
        (fun d c => d.toggle (wrapColumn (x0 + c)) y) d := by
    intro d b y
    rw [Drawing.row, List.foldl_filter]
  simp only [Drawing.sprite, spriteBits, List.foldl_flatMap, List.foldl_map, hrow]

theorem mem_spriteBits {m : Memory} {base n r c : Nat} :
    (r, c) ∈ spriteBits m base n ↔ r < n ∧ c < 8 ∧ spriteBit (m.read (base + r)) c = true := by
  simp [spriteBits]

/-- The set bits of a sprite of at most 32 rows select pairwise different pixels (R142, corner case (c)). -/
theorem spriteBits_distinct (m : Memory) (base x0 y0 n : Nat) (hn : n ≤ 32) :
    (spriteBits m base n).Pairwise fun a b =>
      ¬ (wrapColumn (x0 + a.2) = wrapColumn (x0 + b.2) ∧ wrapRow (y0 + a.1) = wrapRow (y0 + b.1)) := by
  have hne : (spriteBits m base n).Pairwise (· ≠ ·) := by
    refine List.pairwise_flatMap.2 ⟨fun r _ => ?_, List.nodup_range.imp fun h x hx y hy => ?_⟩
    · exact List.pairwise_map.2 ((List.nodup_range.filter _).imp fun h e => h (by simpa using e))
    · obtain ⟨_, _, rfl⟩ := List.mem_map.1 hx
      obtain ⟨_, _, rfl⟩ := List.mem_map.1 hy
      simp [h]
  refine hne.imp_of_mem fun {a b} ha hb hab h => hab ?_
  obtain ⟨r, c⟩ := a
  obtain ⟨r', c'⟩ := b
  obtain ⟨hr, hc, -⟩ := mem_spriteBits.1 ha
  obtain ⟨hr', hc', -⟩ := mem_spriteBits.1 hb
  simp only [wrapColumn, wrapRow, Fin.mk.injEq] at h
  simp only [Prod.mk.injEq]
  omega

/-- What drawing a sprite does to a pixel, and when it hits (R143). -/
theorem Drawing.sprite_spec (d : Drawing) (m : Memory) (base x0 y0 n : Nat) (hn : n ≤ 32) :
    (∀ px py, pixelOf (d.sprite m base x0 y0 n).fb px py = ((pixelOf d.fb px py) ^^
      decide (∃ a ∈ spriteBits m base n, px = wrapColumn (x0 + a.2) ∧ py = wrapRow (y0 + a.1)))) ∧
    ((d.sprite m base x0 y0 n).hit = true ↔ d.hit = true ∨
      ∃ a ∈ spriteBits m base n, pixelOf d.fb (wrapColumn (x0 + a.2)) (wrapRow (y0 + a.1)) = true) := by
  rw [Drawing.sprite_eq_toggles]
  exact Drawing.toggles (fun a : Nat × Nat => wrapColumn (x0 + a.2)) (fun a => wrapRow (y0 + a.1)) _
    (spriteBits_distinct m base x0 y0 n hn) d

end Sys2Proof.Machine
end

