-- ==== Sys2Proof/Laws/Memory.lean ====
section
/-! SUPPORT. The laws of memory: a read after a write, what a write leaves alone, and that every operation
keeps the canonical form. None needs the form as a premise but those about the form itself. -/

namespace Sys2Proof.Machine

theorem ea_lt (a : Nat) : ea a < Config.memSize := Nat.mod_lt _ (by decide)

@[simp] theorem ea_ea (a : Nat) : ea (ea a) = ea a := Nat.mod_mod _ _

/-! ### Cells -/

theorem mem_dropCell {a : Nat} {c : Host.Cell} {cs : List Host.Cell} :
    c ∈ dropCell a cs ↔ c ∈ cs ∧ c.1 ≠ a := by
  simp [dropCell]

theorem mem_insertCell {c d : Host.Cell} {cs : List Host.Cell} :
    d ∈ insertCell c cs ↔ d = c ∨ d ∈ cs := by
  induction cs with
  | nil => simp [insertCell]
  | cons e es ih =>
    simp only [insertCell]
    split
    · simp
    · simp only [List.mem_cons, ih]
      tauto

theorem lookupCell_dropCell_same (a : Nat) (cs : List Host.Cell) :
    lookupCell a (dropCell a cs) = unlistedByte a := by
  induction cs with
  | nil => rfl
  | cons c cs ih =>
    by_cases h : c.1 = a
    · simpa [dropCell, h] using ih
    · have : dropCell a (c :: cs) = c :: dropCell a cs := by simp [dropCell, h]
      simp [this, lookupCell, Ne.symm h, ih]

theorem lookupCell_dropCell_other {a b : Nat} (h : b ≠ a) (cs : List Host.Cell) :
    lookupCell b (dropCell a cs) = lookupCell b cs := by
  induction cs with
  | nil => rfl
  | cons c cs ih =>
    by_cases hc : c.1 = a
    · have : dropCell a (c :: cs) = dropCell a cs := by simp [dropCell, hc]
      simp [this, lookupCell, ih, hc, h]
    · have : dropCell a (c :: cs) = c :: dropCell a cs := by simp [dropCell, hc]
      simp [this, lookupCell, ih]

theorem lookupCell_insertCell {c : Host.Cell} (b : Nat) {cs : List Host.Cell}
    (h : ∀ d ∈ cs, d.1 ≠ c.1) :
    lookupCell b (insertCell c cs) = if b = c.1 then c.2 else lookupCell b cs := by
  induction cs with
  | nil => rfl
  | cons d ds ih =>
    simp only [insertCell]
    split
    · rfl
    · have hd := h d (by simp)
      simp only [lookupCell, ih fun e he => h e (by simp [he])]
      by_cases hb : b = d.1
      · simp [hb, hd]
      · simp [hb]

theorem insertCell_pairwise {c : Host.Cell} {cs : List Host.Cell}
    (hs : cs.Pairwise fun d e => d.1 < e.1) (h : ∀ d ∈ cs, d.1 ≠ c.1) :
    (insertCell c cs).Pairwise fun d e => d.1 < e.1 := by
  induction cs with
  | nil => simp [insertCell]
  | cons d ds ih =>
    obtain ⟨hd, hds⟩ := List.pairwise_cons.1 hs
    have hne := h d (by simp)
    simp only [insertCell]
    split
    case isTrue hlt =>
      refine List.pairwise_cons.2 ⟨fun e he => ?_, hs⟩
      rcases List.mem_cons.1 he with rfl | he
      · exact hlt
      · exact hlt.trans (hd e he)
    case isFalse hlt =>
      refine List.pairwise_cons.2 ⟨fun e he => ?_, ih hds fun e he => h e (by simp [he])⟩
      rcases mem_insertCell.1 he with rfl | he
      · omega
      · exact hd e he

/-! ### Reads and writes -/

/-- A read depends on the effective address only (R61). -/
theorem Memory.read_ea {m : Memory} {a a' : Nat} (h : ea a = ea a') : m.read a = m.read a' := by
  simp [Memory.read, h]

/-- Read after write (R62, R63). -/
theorem Memory.read_write (m : Memory) (a a' : Nat) (b : Byte) :
    (m.write a b).read a' = if ea a' = ea a then b else m.read a' := by
  unfold Memory.write
  split
  case isTrue hb =>
    by_cases h : ea a' = ea a
    · simp [Memory.read, h, lookupCell_dropCell_same, hb]
    · simp [Memory.read, h, lookupCell_dropCell_other h]
  case isFalse hb =>
    have hfree : ∀ d ∈ dropCell (ea a) m.cells, d.1 ≠ ea a := fun d hd => (mem_dropCell.1 hd).2
    simp only [Memory.read, lookupCell_insertCell (c := (ea a, b)) _ hfree]
    by_cases h : ea a' = ea a
    · simp [h]
    · simp [h, lookupCell_dropCell_other h]

/-- A write keeps the canonical form. -/
theorem Memory.wf_write {m : Memory} (hm : m.wf) (a : Nat) (b : Byte) : (m.write a b).wf := by
  have hdrop : (dropCell (ea a) m.cells).Pairwise fun c d => c.1 < d.1 := hm.1.filter _
  unfold Memory.write
  split
  case isTrue hb => exact ⟨hdrop, fun c hc => hm.2 c (mem_dropCell.1 hc).1⟩
  case isFalse hb =>
    refine ⟨insertCell_pairwise hdrop fun d hd => (mem_dropCell.1 hd).2, fun c hc => ?_⟩
    rcases mem_insertCell.1 hc with rfl | hc
    · exact ⟨ea_lt a, hb⟩
    · exact hm.2 c (mem_dropCell.1 hc).1

/-- Writing several bytes keeps the canonical form. -/
theorem Memory.wf_writeBytes {m : Memory} (hm : m.wf) (a : Nat) (bs : List Byte) :
    (m.writeBytes a bs).wf := by
  induction bs generalizing m a with
  | nil => exact hm
  | cons b bs ih => exact ih (Memory.wf_write hm a b) (a + 1)

/-- The empty memory is in canonical form. -/
theorem Memory.wf_empty : (⟨[]⟩ : Memory).wf := by decide

/-- Bytes outside the written ones are left alone (R63, R67). -/
theorem Memory.read_writeBytes_other {m : Memory} {a a' : Nat} {bs : List Byte}
    (h : ∀ k < bs.length, ea a' ≠ ea (a + k)) : (m.writeBytes a bs).read a' = m.read a' := by
  induction bs generalizing m a with
  | nil => rfl
  | cons b bs ih =>
    have h0 : ea a' ≠ ea a := by simpa using h 0 (by simp)
    rw [Memory.writeBytes, ih fun k hk => ?_, Memory.read_write, if_neg h0]
    have := h (k + 1) (by simpa using hk)
    rwa [show a + 1 + k = a + (k + 1) by omega]

/-- Each written byte is read back, as long as the bytes do not wrap onto each other (R66). -/
theorem Memory.read_writeBytes_at {m : Memory} {a k : Nat} {bs : List Byte}
    (hk : k < bs.length) (hlen : bs.length ≤ Config.memSize) :
    (m.writeBytes a bs).read (a + k) = bs[k] := by
  induction bs generalizing m a k with
  | nil => simp at hk
  | cons b bs ih =>
    simp only [List.length_cons] at hk hlen
    cases k with
    | zero =>
      rw [Memory.writeBytes, Memory.read_writeBytes_other fun j hj => ?_]
      · simp [Memory.read_write]
      · have : Config.memSize = 4096 := rfl
        simp only [ea, this] at *
        omega
    | succ k =>
      have := ih (m := m.write a b) (a := a + 1) (k := k) (by omega) (by omega)
      rw [show a + 1 + k = a + (k + 1) by omega] at this
      simpa [Memory.writeBytes] using this

/-- A cell of a canonical memory is what its address reads as. -/
theorem Memory.read_of_mem {m : Memory} (hm : m.wf) {c : Host.Cell} (hc : c ∈ m.cells) :
    m.read c.1 = c.2 := by
  have hlt : ea c.1 = c.1 := Nat.mod_eq_of_lt (hm.2 c hc).1
  have : ∀ cs : List Host.Cell, cs.Pairwise (fun d e => d.1 < e.1) → c ∈ cs → lookupCell c.1 cs = c.2 := by
    intro cs hp hin
    induction cs with
    | nil => simp at hin
    | cons d ds ih =>
      obtain ⟨hd, hds⟩ := List.pairwise_cons.1 hp
      rcases List.mem_cons.1 hin with rfl | hin
      · simp [lookupCell]
      · have := hd c hin
        simp [lookupCell, show c.1 ≠ d.1 by omega, ih hds hin]
  simpa [Memory.read, hlt] using this m.cells hm.1 hc

/-- What a canonical memory reads as at an address it lists is no unlisted byte. -/
theorem Memory.mem_of_read {m : Memory} (a : Nat) (h : m.read a ≠ unlistedByte (ea a)) :
    (ea a, m.read a) ∈ m.cells := by
  have : ∀ cs : List Host.Cell, lookupCell (ea a) cs ≠ unlistedByte (ea a) →
      (ea a, lookupCell (ea a) cs) ∈ cs := by
    intro cs hcs
    induction cs with
    | nil => simp [lookupCell] at hcs
    | cons d ds ih =>
      simp only [lookupCell] at hcs ⊢
      by_cases hd : ea a = d.1
      · simp [hd]
      · simp only [hd, if_false] at hcs ⊢
        exact List.mem_cons_of_mem _ (ih hcs)
  exact this m.cells h

/-- Two canonical memories that read the same at every address are the same data. -/
theorem Memory.ext_read {m m' : Memory} (hm : m.wf) (hm' : m'.wf) (h : ∀ a, m.read a = m'.read a) :
    m = m' := by
  have hmem : ∀ {p q : Memory}, p.wf → (∀ a, p.read a = q.read a) → ∀ c ∈ p.cells, c ∈ q.cells := by
    intro p q hp hpq c hc
    have hread := (hpq c.1).symm.trans (Memory.read_of_mem hp hc)
    have hlt : ea c.1 = c.1 := Nat.mod_eq_of_lt (hp.2 c hc).1
    have := Memory.mem_of_read (m := q) c.1 (by rw [hread, hlt]; exact (hp.2 c hc).2)
    rwa [hread, hlt] at this
  have hnodup : ∀ {p : Memory}, p.wf → p.cells.Nodup := fun hp =>
    hp.1.imp fun hlt heq => by simp [heq] at hlt
  have hperm : m.cells.Perm m'.cells :=
    (List.perm_ext_iff_of_nodup (hnodup hm) (hnodup hm')).2 fun c =>
      ⟨hmem hm h c, hmem hm' (fun a => (h a).symm) c⟩
  have heq : m.cells = m'.cells := by
    refine List.Perm.eq_of_pairwise (le := fun c d => c.1 < d.1) ?_ hm.1 hm'.1 hperm
    intro c d _ _ hcd hdc
    omega
  cases m
  cases m'
  simpa using heq

end Sys2Proof.Machine
end

