-- ==== Sys2Proof/Laws/Frame.lean ====
section
/-! SUPPORT. Frames: what each update of the state leaves alone, and how frames compose. A frame of an
instruction is the frames of its updates, one after another. -/

namespace Sys2Proof.Machine

theorem changesOnly_refl (p : Elem → Prop) (s : State) : changesOnly p s s := by
  intro e _
  cases e <;> simp [Elem.same]

theorem Elem.same_trans {e : Elem} {s t u : State} (h : e.same s t) (h' : e.same t u) : e.same s u := by
  cases e <;> simp_all [Elem.same]

theorem changesOnly_trans {p : Elem → Prop} {s t u : State} (h : changesOnly p s t)
    (h' : changesOnly p t u) : changesOnly p s u :=
  fun e he => Elem.same_trans (h e he) (h' e he)

theorem changesOnly_mono {p q : Elem → Prop} {s t : State} (hpq : ∀ e, p e → q e)
    (h : changesOnly p s t) : changesOnly q s t :=
  fun e he => h e fun hp => he (hpq e hp)

variable (s : State)

theorem changesOnly_writeV (x : Reg) (b : Byte) : changesOnly (· = .v x) s (s.writeV x b) := by
  intro e he
  cases e with
  | v y => simp_all [Elem.same]
  | _ => simp_all [Elem.same]

theorem changesOnly_setRegs (v : Vector Byte 16) :
    changesOnly (fun e => ∃ x, e = .v x) s (s.setRegs v) := by
  intro e he
  cases e <;> simp_all [Elem.same]

theorem changesOnly_setI (a : Word) : changesOnly (· = .i) s (s.setI a) := by
  intro e he
  cases e <;> simp_all [Elem.same]

theorem changesOnly_setPc (a : Word) : changesOnly (· = .pc) s (s.setPc a) := by
  intro e he
  cases e <;> simp_all [Elem.same]

theorem changesOnly_setDt (b : Byte) : changesOnly (· = .dt) s (s.setDt b) := by
  intro e he
  cases e <;> simp_all [Elem.same]

theorem changesOnly_setSt (b : Byte) : changesOnly (· = .st) s (s.setSt b) := by
  intro e he
  cases e <;> simp_all [Elem.same]

theorem changesOnly_setStack (l : List Word) : changesOnly (· = .stack) s (s.setStack l) := by
  intro e he
  cases e <;> simp_all [Elem.same]

theorem changesOnly_setFb (fb : Framebuffer) :
    changesOnly (fun e => ∃ x y, e = .pixel x y) s (s.setFb fb) := by
  intro e he
  cases e <;> simp_all [Elem.same]

theorem changesOnly_setRedraw (b : Bool) : changesOnly (· = .redraw) s (s.setRedraw b) := by
  intro e he
  cases e <;> simp_all [Elem.same]

theorem changesOnly_setErr (f : Option FatalError) : changesOnly (· = .err) s (s.setErr f) := by
  intro e he
  cases e <;> simp_all [Elem.same]

theorem changesOnly_writeKey (k : Key) (b : Bool) : changesOnly (· = .key k) s (s.writeKey k b) := by
  intro e he
  cases e <;> simp_all [Elem.same]

theorem changesOnly_takeRnd : changesOnly (· = .rnd) s s.takeRnd := by
  intro e he
  rw [State.takeRnd_eq]
  cases e <;> simp_all [Elem.same, State.readV, State.readMem, State.pixel, State.key]

/-- A store changes the bytes at its effective addresses and nothing else (R63, R67). -/
theorem changesOnly_storeBytes (a : Nat) (bs : List Byte) :
    changesOnly (·.storedAt a bs.length) s (s.storeBytes a bs) := by
  intro e he
  cases e with
  | mem a' =>
    exact Memory.read_writeBytes_other fun k hk h => he ⟨k, hk, a', rfl, h⟩
  | _ => simp [Elem.same]

end Sys2Proof.Machine
end

