-- ==== Sys2Proof/Laws/PerInstr.lean ====
section
/-! SUPPORT. The statements made of every instruction as syntax, one lemma per constructor. -/

namespace Sys2Proof.Laws

/-! ### A format's fixed nibbles survive its mask, and its fields do not (R92) -/

theorem mask_NNN (op : BitVec 4) (nnn : BitVec 12) :
    (op ++ nnn : BitVec 16) &&& 0xF000#16 = op ++ 0#12 := by
  rw [show (0xF000#16 : BitVec (4 + 12)) = 0xF#4 ++ 0#12 from rfl, BitVec.and_append, BitVec.and_zero,
    show (0xF#4 : BitVec 4) = BitVec.allOnes 4 from rfl, BitVec.and_allOnes]

theorem mask_XNN (op x : BitVec 4) (nn : BitVec 8) :
    (op ++ x ++ nn : BitVec 16) &&& 0xF000#16 = op ++ 0#4 ++ 0#8 := by
  rw [show (0xF000#16 : BitVec (4 + 4 + 8)) = 0xF#4 ++ 0#4 ++ 0#8 from rfl, BitVec.and_append, BitVec.and_append,
    BitVec.and_zero, BitVec.and_zero, show (0xF#4 : BitVec 4) = BitVec.allOnes 4 from rfl, BitVec.and_allOnes]

theorem mask_XYN (op x y n : BitVec 4) :
    (op ++ x ++ y ++ n : BitVec 16) &&& 0xF000#16 = op ++ 0#4 ++ 0#4 ++ 0#4 := by
  rw [show (0xF000#16 : BitVec (4 + 4 + 4 + 4)) = 0xF#4 ++ 0#4 ++ 0#4 ++ 0#4 from rfl, BitVec.and_append,
    BitVec.and_append, BitVec.and_append, BitVec.and_zero, BitVec.and_zero, BitVec.and_zero,
    show (0xF#4 : BitVec 4) = BitVec.allOnes 4 from rfl, BitVec.and_allOnes]

theorem mask_XY (op x y n : BitVec 4) :
    (op ++ x ++ y ++ n : BitVec 16) &&& 0xF00F#16 = op ++ 0#4 ++ 0#4 ++ n := by
  rw [show (0xF00F#16 : BitVec (4 + 4 + 4 + 4)) = 0xF#4 ++ 0#4 ++ 0#4 ++ 0xF#4 from rfl, BitVec.and_append,
    BitVec.and_append, BitVec.and_append, BitVec.and_zero, BitVec.and_zero,
    show (0xF#4 : BitVec 4) = BitVec.allOnes 4 from rfl, BitVec.and_allOnes, BitVec.and_allOnes]

theorem mask_X (op x : BitVec 4) (b : BitVec 8) :
    (op ++ x ++ b : BitVec 16) &&& 0xF0FF#16 = op ++ 0#4 ++ b := by
  rw [show (0xF0FF#16 : BitVec (4 + 4 + 8)) = 0xF#4 ++ 0#4 ++ 0xFF#8 from rfl, BitVec.and_append,
    BitVec.and_append, BitVec.and_zero, show (0xF#4 : BitVec 4) = BitVec.allOnes 4 from rfl,
    show (0xFF#8 : BitVec 8) = BitVec.allOnes 8 from rfl, BitVec.and_allOnes, BitVec.and_allOnes]

/-! ### Every instruction's word matches its row of the opcode map (R94) -/

def EncodesItsRow.Statement (i : Instr) : Prop :=
  i.wf = true → encode i &&& (opcodeRow i).mask = (opcodeRow i).value

namespace EncodesItsRow

theorem op00E0 : Statement .op00E0 := fun _ => rfl

theorem op00EE : Statement .op00EE := fun _ => rfl

theorem op1NNN (nnn : BitVec 12) : Statement (.op1NNN nnn) := fun _ => mask_NNN _ _

theorem op2NNN (nnn : BitVec 12) : Statement (.op2NNN nnn) := fun _ => mask_NNN _ _

theorem op3XNN (x : Reg) (nn : Byte) : Statement (.op3XNN x nn) := fun _ => mask_XNN _ _ _

theorem op4XNN (x : Reg) (nn : Byte) : Statement (.op4XNN x nn) := fun _ => mask_XNN _ _ _

theorem op5XY0 (x y : Reg) : Statement (.op5XY0 x y) := fun _ => mask_XY _ _ _ _

theorem op6XNN (x : Reg) (nn : Byte) : Statement (.op6XNN x nn) := fun _ => mask_XNN _ _ _

theorem op7XNN (x : Reg) (nn : Byte) : Statement (.op7XNN x nn) := fun _ => mask_XNN _ _ _

theorem op8XY0 (x y : Reg) : Statement (.op8XY0 x y) := fun _ => mask_XY _ _ _ _

theorem op8XY1 (x y : Reg) : Statement (.op8XY1 x y) := fun _ => mask_XY _ _ _ _

theorem op8XY2 (x y : Reg) : Statement (.op8XY2 x y) := fun _ => mask_XY _ _ _ _

theorem op8XY3 (x y : Reg) : Statement (.op8XY3 x y) := fun _ => mask_XY _ _ _ _

theorem op8XY4 (x y : Reg) : Statement (.op8XY4 x y) := fun _ => mask_XY _ _ _ _

theorem op8XY5 (x y : Reg) : Statement (.op8XY5 x y) := fun _ => mask_XY _ _ _ _

theorem op8XY6 (x y : Reg) : Statement (.op8XY6 x y) := fun _ => mask_XY _ _ _ _

theorem op9XY0 (x y : Reg) : Statement (.op9XY0 x y) := fun _ => mask_XY _ _ _ _

theorem opANNN (nnn : BitVec 12) : Statement (.opANNN nnn) := fun _ => mask_NNN _ _

theorem opBNNN (nnn : BitVec 12) : Statement (.opBNNN nnn) := fun _ => mask_NNN _ _

theorem opCXNN (x : Reg) (nn : Byte) : Statement (.opCXNN x nn) := fun _ => mask_XNN _ _ _

theorem opDXYN (x y : Reg) (n : Nat) : Statement (.opDXYN x y n) := fun _ => mask_XYN _ _ _ _

theorem opEX9E (x : Reg) : Statement (.opEX9E x) := fun _ => mask_X _ _ _

theorem opEXA1 (x : Reg) : Statement (.opEXA1 x) := fun _ => mask_X _ _ _

theorem opFX07 (x : Reg) : Statement (.opFX07 x) := fun _ => mask_X _ _ _

theorem opFX0A (x : Reg) : Statement (.opFX0A x) := fun _ => mask_X _ _ _

theorem opFX15 (x : Reg) : Statement (.opFX15 x) := fun _ => mask_X _ _ _

theorem opFX18 (x : Reg) : Statement (.opFX18 x) := fun _ => mask_X _ _ _

theorem opFX1E (x : Reg) : Statement (.opFX1E x) := fun _ => mask_X _ _ _

theorem opFX29 (x : Reg) : Statement (.opFX29 x) := fun _ => mask_X _ _ _

theorem opFX33 (x : Reg) : Statement (.opFX33 x) := fun _ => mask_X _ _ _

theorem opFX55 (x : Reg) : Statement (.opFX55 x) := fun _ => mask_X _ _ _

theorem opFX65 (x : Reg) : Statement (.opFX65 x) := fun _ => mask_X _ _ _

end EncodesItsRow

end Sys2Proof.Laws
end

