-- ==== Sys2Proof/Laws/Step.lean ====
section
/-! SUPPORT. What a step and an event can do, said once. -/

namespace Sys2Proof.Machine

/-- A step with an error latched (R130). -/
theorem step_halted {s : State} {e : FatalError} (h : s.err = some e) : step s = .next s := by
  simp [step, h, haltedStep]

/-- A step on an unmatched word (R126). -/
theorem step_unmatched {s : State} (h : s.err = none) (hw : decodeWord s.fetchWord = none) :
    step s = .next s.advancePc := by
  simp [step, h, hw, raiseUnknownOpcode]

/-- A step on an instruction (R124). -/
theorem step_matched {s : State} {i : Instr} (h : s.err = none) (hw : decodeWord s.fetchWord = some i) :
    step s = exec i s.advancePc := by
  simp [step, h, hw]

/-- Everything a step can do when it answers a next state. -/
theorem step_cases {s t : State} (h : step s = .next t) :
    (∃ e, s.err = some e ∧ t = s) ∨
    (s.err = none ∧ decodeWord s.fetchWord = none ∧ t = s.advancePc) ∨
    (∃ i, s.err = none ∧ decodeWord s.fetchWord = some i ∧ exec i s.advancePc = .next t) := by
  cases he : s.err with
  | some e =>
    rw [step_halted he] at h
    cases h
    exact .inl ⟨e, rfl, rfl⟩
  | none =>
    cases hw : decodeWord s.fetchWord with
    | none =>
      rw [step_unmatched he hw] at h
      cases h
      exact .inr (.inl ⟨rfl, rfl, rfl⟩)
    | some i =>
      rw [step_matched he hw] at h
      exact .inr (.inr ⟨i, rfl, rfl, h⟩)

/-- Everything `00EE` can do (R160). -/
theorem exec00EE_cases {s t : State} (h : exec00EE s = .next t) :
    (s.stack = [] ∧ t = s.setErr (some .stackUnderflow)) ∨
    (∃ a rest, s.stack = a :: rest ∧ t = (s.setStack rest).setPc a) := by
  unfold exec00EE at h
  split at h
  case h_1 hs =>
    cases h
    exact .inl ⟨hs, rfl⟩
  case h_2 a rest hs =>
    cases h
    exact .inr ⟨a, rest, hs, rfl⟩

/-- Everything `2NNN` can do (R162). -/
theorem exec2NNN_cases {nnn : BitVec 12} {s t : State} (h : exec2NNN nnn s = .next t) :
    (s.sp = s.params.stackCapacity ∧ t = s.setErr (some .stackOverflow)) ∨
    (s.sp ≠ s.params.stackCapacity ∧ t = (s.setStack (s.pc :: s.stack)).setPc (zextAddr nnn)) := by
  unfold exec2NNN State.stackFull at h
  split at h
  case isTrue hf =>
    cases h
    exact .inl ⟨by simpa using hf, rfl⟩
  case isFalse hf =>
    cases h
    exact .inr ⟨by simpa using hf, rfl⟩

/-- Everything `FX0A` can do (R243). -/
theorem execFX0A_cases {x : Reg} {s t : State} (h : execFX0A x s = .next t) :
    (s.lastPressed = none ∧ t = s.rewindPc) ∨
    (∃ k, s.lastPressed = some k ∧ t = s.writeV x (keyByte k)) := by
  unfold execFX0A at h
  split at h
  case h_1 hk =>
    cases h
    exact .inl ⟨hk, rfl⟩
  case h_2 k hk =>
    cases h
    exact .inr ⟨k, hk, rfl⟩

/-- A `Step(RND)` event is a step whose byte is `RND` and whose supply of later bytes is untouched (R127). -/
theorem stepWith_cases {rnd : Byte} {s t : State} (h : stepWith rnd s = .next t) :
    ∃ u, step (s.supplyRnd rnd) = .next u ∧ t = u.restoreRnd s.rndIn := by
  unfold stepWith at h
  split at h
  case h_1 u hu =>
    cases h
    exact ⟨u, hu, rfl⟩
  all_goals cases h

/-! ### The fetch, byte by byte -/

/-- The two halves of the word fetched: the byte at `PC` above, the byte at `PC + 1` below (R62, R64). -/
theorem fetchWord_half (s : State) {j : Nat} (hj : j < 2) :
    s.fetchWord.extractLsb' (8 * (1 - j)) 8 = s.readMem (s.pc.toNat + j) := by
  obtain rfl | rfl : j = 0 ∨ j = 1 := by omega
  · exact high_append (m := 8) (n := 8) _ _
  · exact low_append (m := 8) (n := 8) _ _

/-! ### The stack and the error latch -/

/-- Every instruction but `00EE` and `2NNN` leaves the stack and the error latch alone (R27, R32). -/
theorem exec_stack_err {i : Instr} {s t : State} (h : exec i s = .next t) (h1 : i ≠ .op00EE)
    (h2 : ∀ nnn, i ≠ .op2NNN nnn) : t.stack = s.stack ∧ t.err = s.err := by
  cases i
  case op00EE => exact absurd rfl h1
  case op2NNN nnn => exact absurd rfl (h2 nnn)
  case opFX0A =>
    rcases execFX0A_cases h with ⟨-, rfl⟩ | ⟨k, -, rfl⟩ <;> exact ⟨rfl, rfl⟩
  case opCXNN =>
    cases h
    rw [State.takeRnd_eq]
    exact ⟨rfl, rfl⟩
  all_goals (cases h; try rw [State.skipIf_eq]); exact ⟨rfl, rfl⟩

/-- What a step can do to the stack: nothing, one pop, or one push (R27). -/
theorem step_stack {s t : State} (h : step s = .next t) :
    t.stack = s.stack ∨ (∃ a, s.stack = a :: t.stack) ∨ (∃ a, t.stack = a :: s.stack) := by
  rcases step_cases h with ⟨e, -, rfl⟩ | ⟨-, -, rfl⟩ | ⟨i, -, -, hx⟩
  · exact .inl rfl
  · exact .inl rfl
  · by_cases h1 : i = .op00EE
    · subst h1
      rcases exec00EE_cases hx with ⟨-, rfl⟩ | ⟨a, rest, h0, rfl⟩
      · exact .inl rfl
      · exact .inr (.inl ⟨a, h0⟩)
    · by_cases h2 : ∃ nnn, i = .op2NNN nnn
      · obtain ⟨nnn, rfl⟩ := h2
        rcases exec2NNN_cases hx with ⟨-, rfl⟩ | ⟨-, rfl⟩
        · exact .inl rfl
        · exact .inr (.inr ⟨_, rfl⟩)
      · exact .inl (exec_stack_err hx h1 fun nnn hn => h2 ⟨nnn, hn⟩).1

/-- What an event other than a reset can do to the stack (R27, R283). -/
theorem applyEvent_stack {e : Event} {s t : State} (h : applyEvent e s = .next t)
    (hr : ∀ program, e ≠ .reset program) :
    t.stack = s.stack ∨ (∃ a, s.stack = a :: t.stack) ∨ (∃ a, t.stack = a :: s.stack) := by
  cases e with
  | reset program => exact absurd rfl (hr program)
  | tick => cases h; exact .inl rfl
  | setKey => cases h; exact .inl rfl
  | ackRedraw => cases h; exact .inl rfl
  | step rnd =>
    obtain ⟨u, hu, rfl⟩ := stepWith_cases h
    simpa using step_stack hu

/-! ### The supply of random bytes -/

/-- Every instruction but `CXNN` ignores the supply of random bytes and leaves it alone (R127). -/
theorem exec_supply {i : Instr} {s t : State} (bytes : List Byte) (h : exec i s = .next t)
    (hi : ∀ x nn, i ≠ .opCXNN x nn) :
    exec i (s.restoreRnd bytes) = .next (t.restoreRnd bytes) ∧ t.rndIn = s.rndIn := by
  cases i
  case opCXNN x nn => exact absurd rfl (hi x nn)
  case op00EE =>
    rcases exec00EE_cases h with ⟨h0, rfl⟩ | ⟨a, rest, h0, rfl⟩ <;>
      exact ⟨by simp only [exec, exec00EE, State.restoreRnd_stack, h0]; rfl, rfl⟩
  case op2NNN =>
    rcases exec2NNN_cases h with ⟨h0, rfl⟩ | ⟨h0, rfl⟩
    · exact ⟨if_pos (decide_eq_true h0), rfl⟩
    · exact ⟨if_neg fun hf => h0 (of_decide_eq_true hf), rfl⟩
  case opFX0A x =>
    have hp : (s.restoreRnd bytes).lastPressed = s.lastPressed := rfl
    rcases execFX0A_cases h with ⟨h0, rfl⟩ | ⟨k, h0, rfl⟩ <;>
      exact ⟨by simp only [exec, execFX0A, hp, h0]; rfl, rfl⟩
  case op3XNN => cases h; simp only [exec, exec3XNN, State.skipIf_eq]; exact ⟨rfl, rfl⟩
  case op4XNN => cases h; simp only [exec, exec4XNN, State.skipIf_eq]; exact ⟨rfl, rfl⟩
  case op5XY0 => cases h; simp only [exec, exec5XY0, State.skipIf_eq]; exact ⟨rfl, rfl⟩
  case op9XY0 => cases h; simp only [exec, exec9XY0, State.skipIf_eq]; exact ⟨rfl, rfl⟩
  case opEX9E => cases h; simp only [exec, execEX9E, State.skipIf_eq]; exact ⟨rfl, rfl⟩
  case opEXA1 => cases h; simp only [exec, execEXA1, State.skipIf_eq]; exact ⟨rfl, rfl⟩
  all_goals (cases h; exact ⟨rfl, rfl⟩)

end Sys2Proof.Machine
end

