-- ==== Sys2Proof/Tests/Slice0.lean ====
section
/-! SUPPORT. The model's own tests: what well-formedness refuses, decodings of words written out from the
encodings of R94, the spec's own vectors (95_test_vectors.md; the id of each in its comment) one step each, and a
witness that the hypotheses of each statement can be met. -/

namespace Sys2Proof.Tests

open Sys2Proof.Machine

/-! ### Helpers -/

/-- The next state of an outcome. -/
def nextOf : Host.Outcome State Fault Refusal → Option State
  | .next t => some t
  | .fault _ => none
  | .refused _ => none

/-- A state with the word `w` at `PC`. -/
def placed (s : State) (w : Nat) : State := s.withFetchWord 16 w

/-- The state one step after placing the word `w` at `PC`. -/
def after (s : State) (w : Nat) : Option State := nextOf (step (placed s w))

/-- The reset state with some registers written. -/
def withRegs (l : List (Reg × Byte)) : State := l.foldl (fun s p => s.writeV p.1 p.2) State.reset

/-- The reset state with some keys pressed. -/
def withKeys (l : List Key) : State := l.foldl (fun s k => s.pressKey k true) State.reset

/-- The reset state with `I` set and bytes stored from there. -/
def withIndex (a : Word) (bs : List Byte) (s : State) : State := (s.setI a).storeBytes a.toNat bs

/-- The set pixels of a row, by column. -/
def rowPixels (s : State) (y : Row) : List Nat :=
  ((List.finRange 64).filter fun x => s.pixel x y).map (·.val)

/-! ### Well-formedness refuses -/

theorem test_wf_refuses_sixteen_rows : (Instr.opDXYN 0 0 16).wf = false := by decide
theorem test_wf_admits_fifteen_rows : (Instr.opDXYN 15 15 15).wf = true := by decide
theorem test_params_wf_refuses_no_capacity :
    ({ Config.defaults with stackCapacity := 0 } : Params).wf = false := by decide
theorem test_params_wf_refuses_no_magnification :
    ({ Config.defaults with mag := 0 } : Params).wf = false := by decide
theorem test_params_wf_refuses_memory_outside :
    ({ Config.defaults with memInit := [(4096, 1)] } : Params).wf = false := by decide
theorem test_params_wf_admits_defaults : Config.defaults.wf = true := by decide

/-! ### Decoding: one word per constructor, written out from R91 to R94 -/

theorem test_decode_display :
    decodeWord 0b0000_0000_1110_0000 = some .op00E0 ∧
    decodeWord 0b1101_0001_0010_1111 = some (.opDXYN 1 2 15) := by decide
theorem test_decode_flow :
    decodeWord 0b0000_0000_1110_1110 = some .op00EE ∧
    decodeWord 0b0001_1010_1011_1100 = some (.op1NNN 0xABC) ∧
    decodeWord 0b0010_0001_0010_0011 = some (.op2NNN 0x123) ∧
    decodeWord 0b1011_1111_0000_0001 = some (.opBNNN 0xF01) := by decide
theorem test_decode_skips :
    decodeWord 0b0011_1010_0001_1111 = some (.op3XNN 0xA 0x1F) ∧
    decodeWord 0b0100_0001_1111_0000 = some (.op4XNN 1 0xF0) ∧
    decodeWord 0b0101_0011_0100_0000 = some (.op5XY0 3 4) ∧
    decodeWord 0b1001_0111_1000_0000 = some (.op9XY0 7 8) := by decide
theorem test_decode_immediates :
    decodeWord 0b0110_1111_0100_0010 = some (.op6XNN 0xF 0x42) ∧
    decodeWord 0b0111_0001_1111_1111 = some (.op7XNN 1 0xFF) ∧
    decodeWord 0b1100_0011_0000_1111 = some (.opCXNN 3 0x0F) := by decide
theorem test_decode_family_8 :
    decodeWord 0b1000_0001_0010_0000 = some (.op8XY0 1 2) ∧
    decodeWord 0b1000_0001_0010_0001 = some (.op8XY1 1 2) ∧
    decodeWord 0b1000_0001_0010_0010 = some (.op8XY2 1 2) ∧
    decodeWord 0b1000_0001_0010_0011 = some (.op8XY3 1 2) ∧
    decodeWord 0b1000_0001_0010_0100 = some (.op8XY4 1 2) ∧
    decodeWord 0b1000_0001_0010_0101 = some (.op8XY5 1 2) ∧
    decodeWord 0b1000_0001_0010_0110 = some (.op8XY6 1 2) := by decide
theorem test_decode_index_memory :
    decodeWord 0b1010_1111_1110_1101 = some (.opANNN 0xFED) ∧
    decodeWord 0b1111_0010_0001_1110 = some (.opFX1E 2) ∧
    decodeWord 0b1111_0010_0010_1001 = some (.opFX29 2) ∧
    decodeWord 0b1111_0010_0011_0011 = some (.opFX33 2) ∧
    decodeWord 0b1111_0010_0101_0101 = some (.opFX55 2) ∧
    decodeWord 0b1111_0010_0110_0101 = some (.opFX65 2) := by decide
theorem test_decode_keypad_timers :
    decodeWord 0b1110_0101_1001_1110 = some (.opEX9E 5) ∧
    decodeWord 0b1110_0101_1010_0001 = some (.opEXA1 5) ∧
    decodeWord 0b1111_0101_0000_0111 = some (.opFX07 5) ∧
    decodeWord 0b1111_0101_0000_1010 = some (.opFX0A 5) ∧
    decodeWord 0b1111_0101_0001_0101 = some (.opFX15 5) ∧
    decodeWord 0b1111_0101_0001_1000 = some (.opFX18 5) := by decide
/-- D-S1, D-S2, D-S3. -/
theorem test_decode_unmatched :
    [0x8017, 0x0000, 0x00E1, 0x0123, 0x5011, 0x800E, 0x8AB7, 0x9011, 0xE19F, 0xE1A2, 0xF1FF, 0xF100,
      0xF175].all (fun w => decodeTableWord 16 w == none) = true := by decide
theorem test_decode_bytes :
    decode [0x61, 0x07, 0xFF] = .instr (.op6XNN 1 7) [0xFF] ∧ decode [0xFF, 0xFF] = .unknownOpcode 0xFFFF ∧
    decode [0x61] = .truncated := by decide

/-! ### The step cycle -/

/-- D-S1. -/
theorem test_step_unmatched :
    stepResult (placed State.reset 0x8017) = some (.unknownOpcode 0x8017) ∧
    (after State.reset 0x8017).map (fun t => (t.pc, t.err)) = some (0x202, none) := by decide
/-- D-S6. -/
theorem test_step_fetch_wraps :
    (nextOf (step ((State.reset.setPc 0xFFF).storeBytes 0xFFF [0x12, 0x34]))).map (·.pc) = some 0x234 := by
  decide
/-- D-S7. -/
theorem test_step_pc_wraps : (after (State.reset.setPc 0xFFFE) 0x6001).map (fun t => (t.readV 0, t.pc)) =
    some (1, 0) := by decide
/-- D-S9. -/
theorem test_step_halted :
    stepResult (State.reset.setErr (some .stackOverflow)) = some (.halted .stackOverflow) ∧
    nextOf (step (State.reset.setErr (some .stackOverflow))) =
      some (State.reset.setErr (some .stackOverflow)) := by decide

/-! ### Display -/

/-- S8, D-D1. -/
theorem test_00E0_clears :
    (after ((withRegs [(15, 0x37)]).setFb (Config.blankDisplay.set 63 (Vector.replicate 32 true))) 0x00E0).map
      (fun t => (t.pixel 63 31, t.readV vf, t.redraw)) = some (false, 0x37, false) := by decide
/-- D-D5. -/
theorem test_DXYN_wraps_columns :
    (after (withIndex 0x300 [0xFF] (withRegs [(0, 60)])) 0xD011).map
      (fun t => (rowPixels t 0, t.readV vf, t.redraw)) = some ([0, 1, 2, 3, 60, 61, 62, 63], 0, true) := by
  decide
/-- D-D8. -/
theorem test_DXYN_flag_register_is_coordinate :
    (after (withIndex 0x300 [0x80] (withRegs [(15, 5), (1, 2)])) 0xDF11).map
      (fun t => (rowPixels t 2, t.readV vf)) = some ([5], 0) := by decide

/-! ### Control transfer -/

/-- D-F8. -/
theorem test_00EE_pops :
    (after ((State.reset.setStack [0x311, 0x206]).setPc 0x400) 0x00EE).map (fun t => (t.pc, t.stack)) =
      some (0x311, [0x206]) := by decide
/-- S11, D-F9. -/
theorem test_00EE_underflow :
    stepResult (placed State.reset 0x00EE) = some .stackUnderflow ∧
    (after State.reset 0x00EE).map (fun t => (t.pc, t.sp, t.err)) = some (0x202, 0, some .stackUnderflow) := by
  decide
/-- D-F3. -/
theorem test_1NNN_odd_target : (after State.reset 0x1FFF).map (·.pc) = some 0xFFF := by decide
/-- D-F5. -/
theorem test_2NNN_last_entry :
    (after ((State.reset.setStack (List.replicate 15 7)).setPc 0x204) 0x220A).map
      (fun t => (t.pc, t.stackEntry 15, t.sp, t.err)) = some (0x20A, some 0x206, 16, none) := by decide
/-- D-F6. -/
theorem test_2NNN_overflow :
    (after ((State.reset.setStack (List.replicate 16 7)).setPc 0x204) 0x220A).map
      (fun t => (t.pc, t.stack, t.err)) = some (0x206, List.replicate 16 7, some .stackOverflow) := by decide
/-- D-F11. -/
theorem test_BNNN_leaves_memory_size : (after (withRegs [(0, 0xFF)]) 0xBFFF).map (·.pc) = some 0x10FE := by
  decide
/-- D-F12. -/
theorem test_BNNN_adds_V0 : (after (withRegs [(0xB, 0x77)]) 0xBB00).map (·.pc) = some 0xB00 := by decide

/-! ### Skips -/

/-- D-K1, D-K2. -/
theorem test_3XNN : (after State.reset 0x3100).map (·.pc) = some 0x204 ∧
    (after (withRegs [(1, 1)]) 0x3100).map (·.pc) = some 0x202 := by decide
/-- D-K3. -/
theorem test_4XNN : (after (withRegs [(2, 0x10)]) 0x4211).map (·.pc) = some 0x204 ∧
    (after (withRegs [(2, 0x10)]) 0x4210).map (·.pc) = some 0x202 := by decide
/-- D-K4, D-K5. -/
theorem test_5XY0 : (after (withRegs [(3, 0x7F), (4, 0x7F)]) 0x5340).map (·.pc) = some 0x204 ∧
    (after (withRegs [(3, 0x7F), (4, 0x80)]) 0x5340).map (·.pc) = some 0x202 := by decide
/-- D-K4, D-K5. -/
theorem test_9XY0 : (after (withRegs [(3, 0x7F), (4, 0x7F)]) 0x9340).map (·.pc) = some 0x202 ∧
    (after (withRegs [(3, 0x7F), (4, 0x80)]) 0x9340).map (·.pc) = some 0x204 := by decide
/-- D-K10. -/
theorem test_EX9E_masks_key :
    (after ((withKeys [10]).writeV 5 0x1A) 0xE59E).map (·.pc) = some 0x204 := by decide
/-- D-K8, D-K9. -/
theorem test_EXA1 : (after ((withKeys [10]).writeV 5 0x0A) 0xE5A1).map (·.pc) = some 0x202 ∧
    (after (withRegs [(5, 0x0A)]) 0xE5A1).map (·.pc) = some 0x204 := by decide

/-! ### Register loads and arithmetic -/

/-- D-A1. -/
theorem test_6XNN : (after State.reset 0x6F42).map (·.readV vf) = some 0x42 := by decide
/-- D-A2. -/
theorem test_7XNN_no_flag :
    (after (withRegs [(1, 0xFF)]) 0x7101).map (fun t => (t.readV 1, t.readV vf)) = some (0, 0) := by decide
/-- D-A5, D-A6. -/
theorem test_8XY0_to_8XY3 :
    [0x8120, 0x8121, 0x8122, 0x8123].map (fun w =>
      (after (withRegs [(1, 0xF0), (2, 0x3C), (15, 9)]) w).map fun t => (t.readV 1, t.readV vf)) =
    [some (0x3C, 9), some (0xFC, 9), some (0x30, 9), some (0xCC, 9)] := by decide
/-- S1. -/
theorem test_8XY4_carry :
    (after (withRegs [(1, 0xFF), (2, 0x01)]) 0x8124).map (fun t => (t.readV 1, t.readV vf)) = some (0, 1) := by
  decide
/-- D-A19. -/
theorem test_8XY4_result_over_flag :
    (after (withRegs [(15, 0xF0), (1, 0x20)]) 0x8F14).map (·.readV vf) = some 0x10 := by decide
/-- S3. -/
theorem test_8XY5_borrow :
    (after (withRegs [(1, 0x05), (2, 0x0A)]) 0x8125).map (fun t => (t.readV 1, t.readV vf)) =
      some (0xFB, 0) := by decide
/-- D-A23. -/
theorem test_8XY5_flag_as_operand :
    (after (withRegs [(1, 0), (15, 1)]) 0x81F5).map (fun t => (t.readV 1, t.readV vf)) = some (0xFF, 0) := by
  decide
/-- S4. -/
theorem test_8XY6_shifts_VY :
    (after (withRegs [(1, 0xAA), (2, 3)]) 0x8126).map (fun t => (t.readV 1, t.readV 2, t.readV vf)) =
      some (1, 3, 1) := by decide
/-- D-A27. -/
theorem test_8XY6_result_over_flag : (after (withRegs [(15, 3)]) 0x8FF6).map (·.readV vf) = some 1 := by decide
/-- D-A28. -/
theorem test_CXNN_masks :
    (nextOf (applyEvent (.step 0xA7) (placed State.reset 0xC30F))).map (·.readV 3) = some 0x07 := by decide

/-! ### Index register and memory -/

/-- D-M1. -/
theorem test_ANNN : (after (State.reset.setI 0xFFFF) 0xAFFF).map (·.i) = some 0xFFF := by decide
/-- D-M3. -/
theorem test_FX1E_wraps : (after ((withRegs [(2, 1)]).setI 0xFFFF) 0xF21E).map (·.i) = some 0 := by decide
/-- D-M5. -/
theorem test_FX29_unmasked : (after (withRegs [(0, 0xFF)]) 0xF029).map (·.i) = some 0x4FB := by decide
/-- D-M8. -/
theorem test_FX33_wraps :
    (after ((withRegs [(3, 123)]).setI 0xFFF) 0xF333).map
      (fun t => (t.readMem 0xFFF, t.readMem 0, t.readMem 1, t.i)) = some (1, 2, 3, 0xFFF) := by decide
/-- D-M11. -/
theorem test_FX55_stores_V0_only :
    (after ((withRegs [(0, 0x99), (1, 0x88)]).setI 0x500) 0xF055).map
      (fun t => (t.readMem 0x500, t.readMem 0x501, t.i)) = some (0x99, 0, 0x501) := by decide
/-- D-M10. -/
theorem test_FX55_wraps :
    (after ((withRegs ((List.finRange 16).map fun k => (k, BitVec.ofNat 8 (0xA0 + k.val)))).setI 0xFF8)
      0xFF55).map (fun t => (t.readMem 0xFF8, t.readMem 0xFFF, t.readMem 0, t.readMem 7, t.i)) =
      some (0xA0, 0xA7, 0xA8, 0xAF, 0x1008) := by decide
/-- D-M12. -/
theorem test_FX65_leaves_next_register :
    (after (withIndex 0x300 [2, 3, 4] (withRegs [(3, 0x77)])) 0xF265).map
      (fun t => (t.readV 0, t.readV 1, t.readV 2, t.readV 3, t.i)) = some (2, 3, 4, 0x77, 0x303) := by decide
/-- D-M13. -/
theorem test_FX65_wraps :
    (after (withIndex 0xFFFE [1, 2, 3] State.reset) 0xF265).map
      (fun t => (t.readV 0, t.readV 1, t.readV 2, t.i)) = some (1, 2, 3, 1) := by decide

/-! ### Keypad and timers -/

/-- D-T1. -/
theorem test_FX07 : (after (State.reset.setDt 0x2A) 0xF107).map (·.readV 1) = some 0x2A := by decide
/-- D-T8. -/
theorem test_FX0A_waits :
    after (withRegs [(2, 0x55)]) 0xF20A = some (placed (withRegs [(2, 0x55)]) 0xF20A) := by decide
/-- D-T10. -/
theorem test_FX0A_highest :
    (after (withKeys [9, 15, 3]) 0xF20A).map (fun t => (t.readV 2, t.pc)) = some (15, 0x202) := by decide
/-- D-T2. -/
theorem test_FX15 : (after (withRegs [(0, 3)]) 0xF015).map (fun t => (t.dt, t.st)) = some (3, 0) := by decide
/-- D-T3. -/
theorem test_FX18 : (after (withRegs [(4, 0x1E)]) 0xF418).map (fun t => (t.st, t.dt, t.tone)) =
    some (0x1E, 0, true) := by decide

/-! ### Host events -/

/-- D-T4, D-T5, D-T6. -/
theorem test_tick :
    [(3, 1), (0, 0), (255, 255)].map (fun p : Byte × Byte =>
      let t := ((State.reset.setDt p.1).setSt p.2).tick
      (t.dt, t.st, t.tone)) = [(2, 0, false), (0, 0, false), (254, 254, true)] := by decide
/-- R301: the state right after reset is what a reset with an empty program leaves. -/
theorem test_reset_is_reset_event : State.reset.resetWith [] = State.reset := by decide
/-- R303: the program lands at 0x200. -/
theorem test_reset_loads :
    (State.reset.resetWith [0x60, 0x05]).readMem 0x200 = 0x60 ∧
    (State.reset.resetWith [0x60, 0x05]).fetchWord = 0x6005 := by decide
/-- R276: physical pixel (127, 63) of the view at magnification 2 is logical pixel (63, 31). -/
theorem test_physical_view :
    ({ (State.reset.setFb (Config.blankDisplay.set 63 (Vector.replicate 32 true))) with
        params := { Config.defaults with mag := 2 } } : State).physicalPixel 127 63 = some true := by decide

/-! ### Witnesses: concrete states and operands that meet the hypotheses of the statements, clause by clause -/

/-- DecodeEncodeRoundTrip, StepRunsPlacedInstruction, DrawTogglesCoveredPixels, at both ends of the row count. -/
theorem witness_wf : (Instr.opDXYN 15 0 15).wf = true ∧ (Instr.opDXYN 0 15 0).wf = true ∧
    (0 : Nat) < 16 ∧ (15 : Nat) < 16 := by decide

/-- DecodeGivesTheOnlyEncoding, and both clauses of DecodeFollowsOpcodeTable. -/
theorem witness_DecodeFollowsOpcodeTable :
    decodeWord 0x8AB6 = some (.op8XY6 0xA 0xB) ∧ opcodeRow (.op5XY0 0 0) ∈ opcodeTable ∧
    0x5FE0 &&& (opcodeRow (.op5XY0 0 0)).mask = (opcodeRow (.op5XY0 0 0)).value := by decide

/-- UnmatchedWordsExactly: a word on each side of every boundary. -/
theorem witness_UnmatchedWordsExactly :
    [0x0000, 0x00DF, 0x00EF, 0x0FFF, 0x5001, 0x5FFF, 0x8007, 0x8FFF, 0x9001, 0x9FFF, 0xE09D, 0xEFA2, 0xF008,
      0xFFFF].all (fun w : Word => decodeWord w == none) = true ∧
    [0x00E0, 0x00EE, 0x1000, 0x4FFF, 0x5000, 0x5FF0, 0x6000, 0x8006, 0x8FF0, 0x9FF0, 0xA000, 0xDFFF, 0xE09E,
      0xEFA1, 0xF007, 0xFF65].all (fun w : Word => (decodeWord w).isSome) = true := by decide

/-- StepRunsDecodedInstruction, at the last byte of memory. -/
theorem witness_StepRunsDecodedInstruction :
    (placed (State.reset.setPc 0xFFF) 0x1234).err = none ∧
    decodeWord ((placed (State.reset.setPc 0xFFF) 0x1234).readMem 0xFFF ++
      (placed (State.reset.setPc 0xFFF) 0x1234).readMem 0x1000) = some (.op1NNN 0x234) := by decide

/-- UnmatchedWordOnlyAdvances; HaltedStepsChangeNothing. -/
theorem witness_UnmatchedWordOnlyAdvances :
    (placed State.reset 0x8017).err = none ∧ decodeWord (placed State.reset 0x8017).fetchWord = none := by decide
theorem witness_HaltedStepsChangeNothing :
    (State.reset.setErr (some .stackUnderflow)).err = some .stackUnderflow := by decide

/-- ErrorsRaisedExactly: each kind occurs. -/
theorem witness_ErrorsRaisedExactly :
    stepResult (placed State.reset 0x0000) = some (.unknownOpcode 0) ∧
    stepResult (placed State.reset 0x00EE) = some .stackUnderflow ∧
    stepResult (placed (State.reset.setStack (List.replicate 16 0)) 0x2000) = some .stackOverflow ∧
    stepResult (placed (State.reset.setStack (List.replicate 15 0)) 0x2000) = some .ok := by decide

/-- ProgramCounterLaws: an unmatched word, a skip taken and not taken, each transfer, the key wait, and another
instruction. -/
theorem witness_ProgramCounterLaws :
    [(State.reset, 0x5001), (State.reset, 0x3000), (State.reset, 0x4000), (State.reset, 0x1FFF), (State.reset, 0x2ABC),
      (State.reset.setStack (List.replicate 16 0), 0x2ABC), (State.reset, 0xBFFF),
      (State.reset.setStack [0x311], 0x00EE), (State.reset, 0x00EE), (State.reset, 0xF00A),
      (withKeys [0], 0xF00A), (State.reset, 0xF055)].map
      (fun p : State × Nat => (after p.1 p.2).map (·.pc)) =
    [some 0x202, some 0x204, some 0x202, some 0xFFF, some 0xABC, some 0x202, some 0xFFF, some 0x311, some 0x202,
      some 0x200, some 0x202, some 0x202] := by decide

/-- StepKeepsInvariant, RunsCompleteAndKeepInvariant: a state that lists memory and has a full stack. -/
theorem witness_StepKeepsInvariant :
    (placed (State.reset.setStack (List.replicate 16 0)) 0xF055).inv ∧
    ∃ t, step (placed (State.reset.setStack (List.replicate 16 0)) 0xF055) = .next t := by
  refine ⟨?_, _, rfl⟩
  unfold State.inv
  decide

/-- OnlyStoresWriteMemory: a store and a reset each change a byte. -/
theorem witness_OnlyStoresWriteMemory :
    ((nextOf (applyEvent (.step 0) (placed (withRegs [(0, 0x99)]) 0xF055))).map (·.readMem 0) = some 0x99 ∧
      (placed (withRegs [(0, 0x99)]) 0xF055).readMem 0 = 0) ∧
    (nextOf (applyEvent (.reset [0xAB]) State.reset)).map (·.readMem 0x200) = some 0xAB ∧
    State.reset.readMem 0x200 = 0 := by decide

/-- A state about to draw one pixel at (0, 0). -/
def drawing : State := placed (withIndex 0x300 [0x80] State.reset) 0xD011

/-- DisplayWritersOnly: a pixel and the redraw flag change by a draw, the flag goes by `AckRedraw`. -/
theorem witness_DisplayWritersOnly :
    ((nextOf (applyEvent (.step 0) drawing)).map (fun t => (t.pixel 0 0, t.redraw)) = some (true, true) ∧
      drawing.pixel 0 0 = false ∧ drawing.redraw = false) ∧
    (nextOf (applyEvent .ackRedraw (drawing.setRedraw true))).map (·.redraw) = some false := by decide

/-- FlagSideEffectsOnlyByFour: `VF` changes as a side effect, and as a destination. -/
theorem witness_FlagSideEffectsOnlyByFour :
    [.op8XY5 1 2, .op6XNN 15 1].map (fun i => (nextOf (exec i State.reset)).map (·.readV vf)) =
      [some 1, some 1] ∧ State.reset.readV vf = 0 := by decide

/-- StackAndErrorOwnership: the stack changes, an error is latched, an error persists. -/
theorem witness_StackAndErrorOwnership :
    (nextOf (applyEvent (.step 0) (placed State.reset 0x2300))).map (·.stack) = some [0x202] ∧
    (nextOf (applyEvent (.step 0) (placed State.reset 0x00EE))).map (·.err) = some (some .stackUnderflow) ∧
    (nextOf (applyEvent .tick (State.reset.setErr (some .stackOverflow)))).map (·.err) =
      some (some .stackOverflow) := by decide

/-- KeysTimersAndParametersOwnership: a key and both timers change. -/
theorem witness_KeysTimersAndParametersOwnership :
    (nextOf (applyEvent (.setKey 15 true) State.reset)).map (·.key 15) = some true ∧
    (nextOf (applyEvent (.step 0) (placed (withRegs [(1, 9)]) 0xF115))).map (·.dt) = some 9 ∧
    (nextOf (applyEvent (.step 0) (placed (withRegs [(1, 9)]) 0xF118))).map (·.st) = some 9 ∧
    (nextOf (applyEvent .tick (State.reset.setDt 1))).map (·.dt) = some 0 := by decide

/-- SoundTimerAndRedrawUnread, KeysReadOnlyByKeyInstructions, IndexObservedModuloMemorySize. -/
theorem witness_noninterference :
    (∃ t, exec (.opFX65 3) State.reset = .next t) ∧ readsKeys (.opFX65 3) = false ∧
    (0x1000 : Word).toNat % 4096 = State.reset.i.toNat % 4096 ∧ (0x1000 : Word) ≠ State.reset.i :=
  ⟨⟨_, rfl⟩, by decide, by decide, by decide⟩

/-- DrawTogglesCoveredPixels: the sprite covers the pixel at (0, 0), unset there. -/
theorem witness_DrawTogglesCoveredPixels :
    spriteCovers drawing 0 0 1 0 0 ∧ drawing.pixel 0 0 = false ∧ (drawing.readV 0).toNat = 0 :=
  ⟨⟨0, by decide, 0, by decide, by decide, by decide, by decide⟩, by decide, by decide⟩

/-- DrawTwiceRestoresDisplay: two draws in a row. -/
theorem witness_DrawTwiceRestoresDisplay :
    ∃ t r, exec (.opDXYN 0 1 1) drawing = .next t ∧ exec (.opDXYN 0 1 1) t = .next r ∧
      t.readV 0 = drawing.readV 0 ∧ t.readV 1 = drawing.readV 1 ∧
      ∀ k < 1, t.readMem (t.base + k) = drawing.readMem (drawing.base + k) :=
  ⟨_, _, rfl, rfl, by decide, by decide, by decide⟩

/-- ReturnPopsOrUnderflows, CallPushesOrOverflows: each clause, at its boundary. -/
theorem witness_ReturnPopsOrUnderflows :
    (State.reset.setStack [0x206]).stack = [0x206] ∧ State.reset.stack = [] := by decide
theorem witness_CallPushesOrOverflows :
    (State.reset.setStack (List.replicate 15 0)).sp ≠
      (State.reset.setStack (List.replicate 15 0)).params.stackCapacity ∧
    (State.reset.setStack (List.replicate 16 0)).sp =
      (State.reset.setStack (List.replicate 16 0)).params.stackCapacity := by decide

/-- EventsKeepOldestStackEntries: a pop that leaves one entry, and a push. -/
theorem witness_EventsKeepOldestStackEntries :
    (nextOf (applyEvent (.step 0) (placed (State.reset.setStack [7, 9]) 0x00EE))).map (·.stack) = some [9] ∧
    (nextOf (applyEvent (.step 0) (placed (State.reset.setStack [9]) 0x2300))).map (·.stack) =
      some [0x202, 9] := by decide

/-- A call of 0x300, where a return stands. -/
def calling : State := (placed State.reset 0x2300).storeBytes 0x300 [0x00, 0xEE]

/-- CallReturnRoundTrip: with a tick in the subroutine. -/
theorem witness_CallReturnRoundTrip :
    ∃ t u r, calling.err = none ∧ decodeWord calling.fetchWord = some (.op2NNN 0x300) ∧
      calling.sp ≠ calling.params.stackCapacity ∧ step calling = .next t ∧ runsAbove t.sp [.tick] t u ∧
      u.sp = t.sp ∧ u.err = none ∧ decodeWord u.fetchWord = some .op00EE ∧ step u = .next r := by
  refine ⟨_, _, _, by decide, by decide, by decide, rfl, ⟨?_, _, rfl, ?_, rfl⟩, ?_, ?_, ?_, rfl⟩
  all_goals first | decide | (intro program h; cases h)

/-- RegisterSkips: a low nibble that is not 0. FlagRegisterAsOperand and the flag clauses of AddRegistersSetsCarry,
SubtractRegistersSetsNotBorrow and ShiftTakesItsSourceFromVY: a register that is not `VF`. -/
theorem witness_operands : (1 : BitVec 4) ≠ 0 ∧ (14 : Reg) ≠ vf := by decide

/-- StepEventIsStep, the first clause: another instruction, an unmatched word, and a halted machine at a `CXNN`. -/
theorem witness_StepEventIsStep :
    decodeWord (placed State.reset 0xF055).fetchWord = some (.opFX55 0) ∧
    decodeWord (placed State.reset 0x8017).fetchWord = none ∧
    ((placed State.reset 0xC30F).setErr (some .stackOverflow)).err ≠ none := by decide

/-- RandomByteIsMasked, the clause of the event, and StepEventIsStep, the second clause. -/
theorem witness_RandomByteIsMasked :
    (placed State.reset 0xC30F).err = none ∧
    decodeWord (placed State.reset 0xC30F).fetchWord = some (.opCXNN 3 0x0F) := by decide

/-- A state with three registers set and `I` at the last byte of memory. -/
def storing : State := (withRegs [(0, 0x11), (1, 0x22), (2, 0x33)]).setI 0xFFF

/-- StoreRegisters, LoadRegisters, StoreLoadRoundTrip: `I` set back to an address 4096 above. -/
theorem witness_StoreLoadRoundTrip :
    ∃ t r, exec (.opFX55 2) storing = .next t ∧ exec (.opFX65 2) (t.setI 0x1FFF) = .next r ∧
      ea (t.setI 0x1FFF).base = ea storing.base ∧ (2 : Reg) ≤ 2 ∧
      ∀ k ≤ (2 : Reg).val, (t.setI 0x1FFF).readMem (storing.base + k) = t.readMem (storing.base + k) :=
  ⟨_, _, rfl, rfl, by decide, by decide, fun _ _ => rfl⟩

/-- StoreIntoCodeIsFetched, `FX55`: both bytes at `PC` stored; with `PC` at the last byte stored, the high one
only. -/
theorem witness_StoreIntoCodeIsFetched_FX55 :
    (∃ t, exec (.opFX55 2) (storing.setPc 0x1000) = .next t) ∧ (2 : Reg) ≤ 2 ∧
    ea ((storing.setPc 0x1000).pc.toNat + 0) = ea ((storing.setPc 0x1000).base + (1 : Reg).val) ∧
    ea ((storing.setPc 0x1000).pc.toNat + 1) = ea ((storing.setPc 0x1000).base + (2 : Reg).val) ∧
    ea ((storing.setPc 0x1001).pc.toNat + 0) = ea ((storing.setPc 0x1001).base + (2 : Reg).val) ∧
    ∀ k : Reg, k ≤ 2 → ea ((storing.setPc 0x1001).pc.toNat + 1) ≠ ea ((storing.setPc 0x1001).base + k.val) :=
  ⟨⟨_, rfl⟩, by decide, by decide, by decide, by decide, by decide⟩

/-- StoreIntoCodeIsFetched, `FX33`: with `PC` just below the first byte stored, the low one only. -/
theorem witness_StoreIntoCodeIsFetched_FX33 :
    (∃ t, exec (.opFX33 2) (storing.setPc 0xFFE) = .next t) ∧
    ea ((storing.setPc 0xFFE).pc.toNat + 1) = ea ((storing.setPc 0xFFE).base + 0) ∧
    ∀ k < 3, ea ((storing.setPc 0xFFE).pc.toNat + 0) ≠ ea ((storing.setPc 0xFFE).base + k) :=
  ⟨⟨_, rfl⟩, by decide, by decide⟩

/-- KeySkips: a register above 0x0F selects by its low nibble. -/
theorem witness_KeySkips : (10 : Key).val = ((withRegs [(5, 0x1A)]).readV 5).toNat % 16 := by decide

/-- KeyWaitTakesHighestKey: keys pressed, the highest of them 9; and none pressed. -/
theorem witness_KeyWaitTakesHighestKey :
    ((withKeys [9, 3]).key 9 = true ∧ ∀ j : Key, 9 < j → (withKeys [9, 3]).key j = false) ∧
    ∀ k : Key, State.reset.key k = false := by decide

/-- KeyWaitRepeatsUntilKeyPressed. -/
theorem witness_KeyWaitRepeatsUntilKeyPressed : (placed State.reset 0xF20A).waitingForKey :=
  ⟨by decide, ⟨2, by decide⟩, by decide⟩

/-- SelfJumpParks (D-F2). -/
theorem witness_SelfJumpParks : (placed (State.reset.setPc 0x20C) 0x120C).parkedOnJump :=
  ⟨by decide, 0x20C, by decide, by decide⟩

/-- ResetLoadsProgram: the first and last byte of a program that fills memory, of the font, and an address of
`MEM_INIT` below and above a short program. -/
theorem witness_ResetLoadsProgram :
    (0 < (List.replicate 3600 (1 : Byte)).length ∧ 3583 < (List.replicate 3600 (1 : Byte)).length ∧
      (3583 : Nat) < 3584) ∧ (0 < 80 ∧ 79 < 80) ∧
    (80 ≤ 0x1FF ∧ 0x1FF < 0x200) ∧ 0x200 + ([1] : List Byte).length ≤ 0xFFF ∧ 0xFFF < 4096 := by
  rw [List.length_replicate]
  decide

/-- PhysicalViewShowsBlocks, at the last row and column of a block of 2 by 2. -/
theorem witness_PhysicalViewShowsBlocks :
    1 < ({ State.reset with params := { Config.defaults with mag := 2 } } : State).params.mag := by decide

end Sys2Proof.Tests
end

section
/-! PROOFS, the state (10_state.md). What each instruction, each step and each event may write, said once
(R20 to R34); who owns an element follows from it. -/

namespace Sys2Proof

open Machine

/-! ### The elements an instruction writes -/

/-- The elements of the state an instruction may change, an error it raises included (41_display.md to
46_keypad_timers.md). -/
def Instr.writes (i : Instr) (e : Elem) : Prop :=
  match i with
  | .op00E0 => ∃ px py, e = .pixel px py
  | .op00EE | .op2NNN _ => (e = .stack ∨ e = .pc) ∨ e = .err
  | .op1NNN _ | .opBNNN _ => e = .pc
  | .op3XNN _ _ | .op4XNN _ _ | .op5XY0 _ _ | .op9XY0 _ _ | .opEX9E _ | .opEXA1 _ => e = .pc
  | .op6XNN x _ | .op7XNN x _ | .opFX07 x => e = .v x
  | .op8XY0 x _ | .op8XY1 x _ | .op8XY2 x _ | .op8XY3 x _ => e = .v x
  | .op8XY4 x _ | .op8XY5 x _ | .op8XY6 x _ => e = .v vf ∨ e = .v x
  | .opCXNN x _ => e = .rnd ∨ e = .v x
  | .opDXYN _ _ _ => ((∃ px py, e = .pixel px py) ∨ e = .v vf) ∨ e = .redraw
  | .opFX0A x => e = .pc ∨ e = .v x
  | .opFX15 _ => e = .dt
  | .opFX18 _ => e = .st
  | .opANNN _ | .opFX1E _ | .opFX29 _ => e = .i
  | .opFX33 _ => ∃ a, e = .mem a
  | .opFX55 _ => (∃ a, e = .mem a) ∨ e = .i
  | .opFX65 x => (∃ y ≤ x, e = .v y) ∨ e = .i

variable {i : Instr}

theorem Instr.writes_pixel {x : Column} {y : Row} :
    i.writes (.pixel x y) ↔ i = .op00E0 ∨ ∃ x y n, i = .opDXYN x y n := by
  cases i <;> simp [Instr.writes]

/-- The four that write `VF` as a flag, and those that name it as their destination (R22). -/
theorem Instr.writes_vf : i.writes (.v vf) ↔
    (∃ x y, i = .op8XY4 x y ∨ i = .op8XY5 x y ∨ i = .op8XY6 x y) ∨ (∃ x y n, i = .opDXYN x y n) ∨
    (∃ nn, i = .op6XNN vf nn ∨ i = .op7XNN vf nn ∨ i = .opCXNN vf nn) ∨
    (∃ y, i = .op8XY0 vf y ∨ i = .op8XY1 vf y ∨ i = .op8XY2 vf y ∨ i = .op8XY3 vf y) ∨
    i = .opFX07 vf ∨ i = .opFX0A vf ∨ i = .opFX65 vf := by
  have hle : ∀ x : Reg, vf ≤ x ↔ vf = x := fun x => Fin.last_le_iff.trans eq_comm
  cases i <;> simp [Instr.writes, hle, eq_comm]

theorem Instr.writes_redraw : i.writes .redraw ↔ ∃ x y n, i = .opDXYN x y n := by
  cases i <;> simp [Instr.writes]

theorem Instr.writes_stack : i.writes .stack ↔ i = .op00EE ∨ ∃ nnn, i = .op2NNN nnn := by
  cases i <;> simp [Instr.writes]

theorem Instr.writes_err : i.writes .err ↔ i = .op00EE ∨ ∃ nnn, i = .op2NNN nnn := by
  cases i <;> simp [Instr.writes]

theorem Instr.writes_dt : i.writes .dt ↔ ∃ x, i = .opFX15 x := by
  cases i <;> simp [Instr.writes]

theorem Instr.writes_st : i.writes .st ↔ ∃ x, i = .opFX18 x := by
  cases i <;> simp [Instr.writes]

theorem Instr.not_writes_key {k : Key} : ¬ i.writes (.key k) := by
  cases i <;> simp [Instr.writes]

theorem Instr.not_writes_params : ¬ i.writes .params := by
  cases i <;> simp [Instr.writes]

end Sys2Proof

namespace Sys2Proof.Machine

/-- Frames one after the other: what either step may change. -/
theorem changesOnly_then {p q : Elem → Prop} {s t u : State} (h : changesOnly p s t)
    (h' : changesOnly q t u) : changesOnly (fun e => p e ∨ q e) s u :=
  changesOnly_trans (changesOnly_mono (fun _ => .inl) h) (changesOnly_mono (fun _ => .inr) h')

variable (s : State)

theorem changesOnly_skipIf (c : Bool) : changesOnly (· = .pc) s (s.skipIf c) := by
  rw [State.skipIf_eq]
  exact changesOnly_setPc s _

theorem changesOnly_writeFlagThenResult (x : Reg) (flag result : Byte) :
    changesOnly (fun e => e = .v vf ∨ e = .v x) s (s.writeFlagThenResult x flag result) :=
  changesOnly_then (changesOnly_writeV s vf flag) (changesOnly_writeV _ x result)

/-- A store changes memory only. -/
theorem changesOnly_mem_storeBytes (a : Nat) (bs : List Byte) :
    changesOnly (fun e => ∃ a', e = .mem a') s (s.storeBytes a bs) :=
  changesOnly_mono (fun _ ⟨_, _, a', he, _⟩ => ⟨a', he⟩) (changesOnly_storeBytes s a bs)

/-- A load of `V0..VX` changes those registers only (R225). -/
theorem changesOnly_regsFromMem (x : Reg) (a : Nat) :
    changesOnly (fun e => ∃ y ≤ x, e = .v y) s (s.setRegs (s.regsFromMem x a)) := by
  intro e he
  cases e with
  | v y =>
    have hy : ¬ y ≤ x := fun hle => he ⟨y, hle, rfl⟩
    simp [Elem.same, State.regsFromMem_get, hy]
  | _ => simp [Elem.same]

variable {s} {i : Instr} {t : State}

/-- An instruction changes only the elements it may write. -/
theorem exec_writes (h : exec i s = .next t) : changesOnly i.writes s t := by
  cases i
  case op00E0 => cases h; exact changesOnly_setFb s _
  case op00EE =>
    rcases exec00EE_cases h with ⟨-, rfl⟩ | ⟨a, rest, -, rfl⟩
    · exact changesOnly_mono (fun _ => .inr) (changesOnly_setErr s _)
    · exact changesOnly_mono (fun _ => .inl)
        (changesOnly_then (changesOnly_setStack s rest) (changesOnly_setPc _ a))
  case op2NNN nnn =>
    rcases exec2NNN_cases h with ⟨-, rfl⟩ | ⟨-, rfl⟩
    · exact changesOnly_mono (fun _ => .inr) (changesOnly_setErr s _)
    · exact changesOnly_mono (fun _ => .inl)
        (changesOnly_then (changesOnly_setStack s _) (changesOnly_setPc _ _))
  case op1NNN | opBNNN => cases h; exact changesOnly_setPc s _
  case op3XNN | op4XNN | op5XY0 | op9XY0 | opEX9E | opEXA1 => cases h; exact changesOnly_skipIf s _
  case op6XNN x _ | op7XNN x _ | opFX07 x | op8XY0 x _ | op8XY1 x _ | op8XY2 x _ | op8XY3 x _ =>
    cases h; exact changesOnly_writeV s x _
  case op8XY4 x _ | op8XY5 x _ | op8XY6 x _ =>
    cases h; exact changesOnly_writeFlagThenResult s x _ _
  case opCXNN x _ =>
    cases h; exact changesOnly_then (changesOnly_takeRnd s) (changesOnly_writeV _ x _)
  case opDXYN =>
    cases h
    exact changesOnly_then (changesOnly_then (changesOnly_setFb s _) (changesOnly_writeV _ vf _))
      (changesOnly_setRedraw _ true)
  case opFX0A x =>
    rcases execFX0A_cases h with ⟨-, rfl⟩ | ⟨k, -, rfl⟩
    · exact changesOnly_mono (fun _ => .inl) (changesOnly_setPc s _)
    · exact changesOnly_mono (fun _ => .inr) (changesOnly_writeV s x _)
  case opFX15 => cases h; exact changesOnly_setDt s _
  case opFX18 => cases h; exact changesOnly_setSt s _
  case opANNN | opFX1E | opFX29 => cases h; exact changesOnly_setI s _
  case opFX33 => cases h; exact changesOnly_mem_storeBytes s _ _
  case opFX55 =>
    cases h; exact changesOnly_then (changesOnly_mem_storeBytes s _ _) (changesOnly_setI _ _)
  case opFX65 x =>
    cases h; exact changesOnly_then (changesOnly_regsFromMem s x _) (changesOnly_setI _ _)

/-! ### The elements a step and an event write -/

/-- The elements a step from `s` may change: none on a halted machine, else `PC` and what the instruction fetched
may write (R122, R124, R126, R130). -/
def State.stepWrites (s : State) (el : Elem) : Prop :=
  s.err = none ∧ (el = .pc ∨ ∃ i, decodeWord s.fetchWord = some i ∧ i.writes el)

theorem changesOnly_advancePc (s : State) : changesOnly (· = .pc) s s.advancePc := changesOnly_setPc s _

theorem step_writes (h : step s = .next t) : changesOnly s.stepWrites s t := by
  rcases step_cases h with ⟨e, -, rfl⟩ | ⟨hr, -, rfl⟩ | ⟨i, hr, hw, hx⟩
  · exact changesOnly_refl _ _
  · exact changesOnly_mono (fun _ he => ⟨hr, .inl he⟩) (changesOnly_advancePc s)
  · exact changesOnly_mono (fun _ he => ⟨hr, he.imp_right fun hi => ⟨i, hw, hi⟩⟩)
      (changesOnly_then (changesOnly_advancePc s) (exec_writes hx))

/-- The elements an event from `s` may change (R283). -/
def Event.writes (e : Event) (s : State) (el : Elem) : Prop :=
  match e with
  | .reset _ => el ≠ .params ∧ ∀ k, el ≠ .key k
  | .step _ => s.stepWrites el
  | .tick => el = .dt ∨ el = .st
  | .setKey k _ => el = .key k
  | .ackRedraw => el = .redraw

/-- Supplying a byte for one step and putting the supply back adds nothing to the step's frame (R127). -/
theorem changesOnly_restoreRnd {p : Elem → Prop} {rnd : Byte} (h : changesOnly p (s.supplyRnd rnd) t) :
    changesOnly p s (t.restoreRnd s.rndIn) := by
  intro el hel
  have hsame := h el hel
  cases el
  case rnd => exact ⟨rfl, hsame.2⟩
  all_goals exact hsame

/-- An event changes only the elements it may write. -/
theorem applyEvent_writes {e : Event} (h : applyEvent e s = .next t) : changesOnly (e.writes s) s t := by
  cases e with
  | reset program =>
    cases h
    intro el hel
    cases el <;> simp_all [Event.writes, Elem.same, State.resetWith, State.key]
  | step rnd =>
    obtain ⟨u, hu, rfl⟩ := stepWith_cases h
    exact changesOnly_restoreRnd (step_writes hu)
  | tick => cases h; exact changesOnly_then (changesOnly_setDt s _) (changesOnly_setSt _ _)
  | setKey k b => cases h; exact changesOnly_writeKey s k b
  | ackRedraw => cases h; exact changesOnly_setRedraw s false

/-- An element that an event has changed is one it may write. -/
theorem writes_of_changed {e : Event} {el : Elem} (h : applyEvent e s = .next t) (hc : ¬ el.same s t) :
    e.writes s el :=
  not_imp_comm.1 (applyEvent_writes h el) hc

end Sys2Proof.Machine
end

section
/-! PROOFS, the state (10_state.md). The invariant and the reset state (R27, R28, R38), the stack's oldest
entries (R27, R164), and what a reset leaves (R301). -/

namespace Sys2Proof.Machine

variable {s t : State}

/-! ### The invariant -/

/-- An instruction leaves memory alone or stores bytes in it (R76). -/
theorem exec_mem {i : Instr} (h : exec i s = .next t) :
    t.mem = s.mem ∨ ∃ a bs, t.mem = s.mem.writeBytes a bs := by
  cases i
  case opFX33 => cases h; exact .inr ⟨_, _, rfl⟩
  case opFX55 => cases h; exact .inr ⟨_, _, rfl⟩
  case op00EE => rcases exec00EE_cases h with ⟨-, rfl⟩ | ⟨a, rest, -, rfl⟩ <;> exact .inl rfl
  case op2NNN => rcases exec2NNN_cases h with ⟨-, rfl⟩ | ⟨-, rfl⟩ <;> exact .inl rfl
  case opFX0A => rcases execFX0A_cases h with ⟨-, rfl⟩ | ⟨k, -, rfl⟩ <;> exact .inl rfl
  case opCXNN => cases h; rw [State.takeRnd_eq]; exact .inl rfl
  case op3XNN | op4XNN | op5XY0 | op9XY0 | opEX9E | opEXA1 =>
    cases h; rw [State.skipIf_eq]; exact .inl rfl
  all_goals cases h; exact .inl rfl

theorem exec_params {i : Instr} (h : exec i s = .next t) : t.params = s.params :=
  exec_writes h .params Instr.not_writes_params

/-- An instruction keeps memory in its canonical form. -/
theorem exec_mem_wf {i : Instr} (hm : s.mem.wf) (h : exec i s = .next t) : t.mem.wf := by
  rcases exec_mem h with heq | ⟨a, bs, heq⟩
  · exact heq ▸ hm
  · exact heq ▸ Memory.wf_writeBytes hm a bs

/-- An instruction keeps the stack within its capacity: a call pushes below capacity only (R27, R162). -/
theorem exec_sp_le {i : Instr} (hs : s.sp ≤ s.params.stackCapacity) (h : exec i s = .next t) :
    t.sp ≤ s.params.stackCapacity := by
  by_cases hi : i.writes .stack
  · rcases Instr.writes_stack.1 hi with rfl | ⟨nnn, rfl⟩
    · rcases exec00EE_cases h with ⟨-, rfl⟩ | ⟨a, rest, h0, rfl⟩
      · exact hs
      · simp only [State.sp, h0, List.length_cons] at hs
        simp only [State.setPc_sp, State.setStack_sp]
        omega
    · rcases exec2NNN_cases h with ⟨-, rfl⟩ | ⟨hne, rfl⟩
      · exact hs
      · exact Nat.lt_of_le_of_ne hs hne
  · have hst : t.stack = s.stack := exec_writes h .stack hi
    simpa [State.sp, hst] using hs

theorem exec_inv {i : Instr} (hs : s.inv) (h : exec i s = .next t) : t.inv := by
  obtain ⟨hm, hsp, hp⟩ := hs
  refine ⟨exec_mem_wf hm h, ?_, ?_⟩
  · exact exec_params h ▸ exec_sp_le hsp h
  · exact exec_params h ▸ hp

/-- Settles O15: a step that runs no instruction moves `PC` at most, and every instruction keeps the three parts
of the invariant. -/
theorem stepKeepsInvariant : Obligations.StepKeepsInvariant := by
  intro s t hs h
  rcases step_cases h with ⟨e, -, rfl⟩ | ⟨-, -, rfl⟩ | ⟨i, -, -, hx⟩
  · exact hs
  · exact hs
  · exact exec_inv (s := s.advancePc) hs hx

/-- Settles O14: nothing is listed in memory, nothing is on the stack. -/
theorem resetStateMeetsInvariant : Obligations.ResetStateMeetsInvariant :=
  ⟨Memory.wf_empty, Nat.zero_le _, by decide⟩

/-! ### The stack's oldest entries -/

/-- A push leaves every entry that was there (R27). -/
theorem stackEntry_of_push {a : Word} (h : t.stack = a :: s.stack) {j : Nat} (hj : j < s.sp) :
    t.stackEntry j = s.stackEntry j := by
  simp only [State.stackEntry, h, List.reverse_cons]
  exact List.getElem?_append_left (by simpa [State.sp] using hj)

/-- Settles O60: an event does nothing to the stack, pops one entry or pushes one; the entries below both depths
are the same either way. -/
theorem eventsKeepOldestStackEntries : Obligations.EventsKeepOldestStackEntries := by
  intro e s t d hr h hs ht j hj
  rcases applyEvent_stack h hr with hsame | ⟨a, hpop⟩ | ⟨a, hpush⟩
  · simp only [State.stackEntry, hsame]
  · exact (stackEntry_of_push hpop (hj.trans_le ht)).symm
  · exact stackEntry_of_push hpush (hj.trans_le hs)

/-! ### The state after a reset -/

/-- The word fetched at a known `PC` (R62, R121). -/
theorem fetchWord_of_pc {a : Word} (h : s.pc = a) :
    s.fetchWord = s.readMem a.toNat ++ s.readMem (a.toNat + 1) := by
  subst h
  rfl

/-- Settles O57: each value is the reset's own; the fetch goes by the new `PC`. -/
theorem resetValues : Obligations.ResetValues := by
  intro s program
  refine ⟨s.resetWith program, rfl, fun x => ?_, rfl, rfl, rfl, rfl, rfl, rfl, rfl, rfl, rfl, rfl, ?_⟩
  · simp [State.readV, State.resetWith]
  · exact fetchWord_of_pc (a := 0x200) rfl

end Sys2Proof.Machine
end


section
/-! PROOFS, the state (10_state.md). Who owns the display, the flag register, the stack and the error latch, the
keys, the timers and the parameters (R22, R25 to R34). -/

namespace Sys2Proof.Machine

variable {e : Event} {s t : State} {el : Elem}

/-- Who writes an element other than `PC`, event by event (R283). -/
theorem Event.writes_cases (h : e.writes s el) (hpc : el ≠ .pc) :
    (∃ program, e = .reset program ∧ el ≠ .params ∧ ∀ k, el ≠ .key k) ∨
    (∃ rnd i, e = .step rnd ∧ s.err = none ∧ decodeWord s.fetchWord = some i ∧ i.writes el) ∨
    (e = .tick ∧ (el = .dt ∨ el = .st)) ∨
    (∃ k b, e = .setKey k b ∧ el = .key k) ∨
    (e = .ackRedraw ∧ el = .redraw) := by
  cases e with
  | reset program => exact .inl ⟨program, rfl, h⟩
  | step rnd =>
    obtain ⟨hr, hel⟩ := h
    obtain ⟨i, hw, hi⟩ := hel.resolve_left hpc
    exact .inr (.inl ⟨rnd, i, rfl, hr, hw, hi⟩)
  | tick => exact .inr (.inr (.inl ⟨rfl, h⟩))
  | setKey k b => exact .inr (.inr (.inr (.inl ⟨k, b, rfl, h⟩)))
  | ackRedraw => exact .inr (.inr (.inr (.inr ⟨rfl, h⟩)))

/-! ### The display and the redraw flag -/

theorem Event.writes_pixel {x : Column} {y : Row} (h : e.writes s (.pixel x y)) :
    (∃ program, e = .reset program) ∨ ∃ rnd, e = .step rnd ∧
      (decodeWord s.fetchWord = some .op00E0 ∨
        ∃ x y n, decodeWord s.fetchWord = some (.opDXYN x y n)) := by
  rcases Event.writes_cases h (by simp) with
    ⟨program, rfl, -⟩ | ⟨rnd, i, rfl, -, hw, hi⟩ | ⟨-, h⟩ | ⟨k, b, -, h⟩ | ⟨-, h⟩
  · exact .inl ⟨program, rfl⟩
  · rcases Instr.writes_pixel.1 hi with rfl | ⟨x, y, n, rfl⟩
    · exact .inr ⟨rnd, rfl, .inl hw⟩
    · exact .inr ⟨rnd, rfl, .inr ⟨x, y, n, hw⟩⟩
  all_goals simp at h

theorem Event.writes_redraw (h : e.writes s .redraw) :
    (∃ program, e = .reset program) ∨ e = .ackRedraw ∨
    ∃ rnd, e = .step rnd ∧ ∃ x y n, decodeWord s.fetchWord = some (.opDXYN x y n) := by
  rcases Event.writes_cases h (by simp) with
    ⟨program, rfl, -⟩ | ⟨rnd, i, rfl, -, hw, hi⟩ | ⟨-, h⟩ | ⟨k, b, -, h⟩ | ⟨rfl, -⟩
  · exact .inl ⟨program, rfl⟩
  · obtain ⟨x, y, n, rfl⟩ := Instr.writes_redraw.1 hi
    exact .inr (.inr ⟨rnd, rfl, x, y, n, hw⟩)
  · simp at h
  · simp at h
  · exact .inr (.inl rfl)

/-- No instruction clears the redraw flag (R31). -/
theorem exec_keeps_redraw {i : Instr} (h : exec i s = .next t) (hs : s.redraw = true) :
    t.redraw = true := by
  by_cases hi : i.writes .redraw
  · obtain ⟨x, y, n, rfl⟩ := Instr.writes_redraw.1 hi
    cases h
    rfl
  · exact (exec_writes h .redraw hi).trans hs

/-- No step clears the redraw flag (R31). -/
theorem step_keeps_redraw (h : step s = .next t) (hs : s.redraw = true) : t.redraw = true := by
  rcases step_cases h with ⟨e, -, rfl⟩ | ⟨-, -, rfl⟩ | ⟨i, -, -, hx⟩
  · exact hs
  · exact hs
  · exact exec_keeps_redraw hx hs

/-- Settles O18: the pixels and the redraw flag have the writers the frame of an event gives them, and a step,
which may write the flag, never clears it. A reset never sets it. -/
theorem displayWritersOnly : Obligations.DisplayWritersOnly := by
  intro e s t h
  refine ⟨fun x y hc => Event.writes_pixel (writes_of_changed h hc), fun hs ht => ?_, fun hs ht => ?_⟩
  all_goals
    have hw : e.writes s .redraw := writes_of_changed h (by simp [Elem.same, hs, ht])
    rcases Event.writes_redraw hw with ⟨program, rfl⟩ | rfl | ⟨rnd, rfl, hd⟩
  · cases h
    cases ht
  · cases h
    cases ht
  · exact ⟨rnd, rfl, hd⟩
  · exact .inr ⟨program, rfl⟩
  · exact .inl rfl
  · obtain ⟨u, hu, rfl⟩ := stepWith_cases h
    exact absurd (step_keeps_redraw hu hs) (by simp_all)

/-! ### The flag register -/

/-- Settles O19: of the instructions that may write `VF`, the four write it as a flag and the others name it in
their `X` field. -/
theorem flagSideEffectsOnlyByFour : Obligations.FlagSideEffectsOnlyByFour := by
  intro i s t h hc
  have hw : i.writes (.v vf) := not_imp_comm.1 (exec_writes h (.v vf)) hc
  exact Instr.writes_vf.1 hw

/-! ### The stack and the error latch -/

/-- But for a reset, the stack and the error latch change by `00EE` and `2NNN` of a running machine (R27, R32). -/
theorem Event.writes_stack_or_err (hr : ∀ program, e ≠ .reset program) (hel : el = .stack ∨ el = .err)
    (h : e.writes s el) : ∃ rnd, e = .step rnd ∧ s.err = none ∧
      (decodeWord s.fetchWord = some .op00EE ∨ ∃ nnn, decodeWord s.fetchWord = some (.op2NNN nnn)) := by
  have hpc : el ≠ .pc := by rcases hel with rfl | rfl <;> simp
  rcases Event.writes_cases h hpc with
    ⟨program, he, -⟩ | ⟨rnd, i, he, hrun, hw, hi⟩ | ⟨-, h⟩ | ⟨k, b, -, h⟩ | ⟨-, h⟩
  · exact absurd he (hr program)
  · have hi' : i = .op00EE ∨ ∃ nnn, i = .op2NNN nnn := by
      rcases hel with rfl | rfl
      · exact Instr.writes_stack.1 hi
      · exact Instr.writes_err.1 hi
    rcases hi' with rfl | ⟨nnn, rfl⟩
    · exact ⟨rnd, he, hrun, .inl hw⟩
    · exact ⟨rnd, he, hrun, .inr ⟨nnn, hw⟩⟩
  all_goals rcases hel with rfl | rfl <;> simp at h

/-- Settles O20: both elements are written by `00EE`, `2NNN` and a reset only, and by no step of a halted
machine. -/
theorem stackAndErrorOwnership : Obligations.StackAndErrorOwnership := by
  intro e s t h hr
  refine ⟨?_, fun f hf => ?_⟩
  · rintro (hc | hc)
    · exact Event.writes_stack_or_err hr (.inl rfl) (writes_of_changed h hc)
    · exact Event.writes_stack_or_err hr (.inr rfl) (writes_of_changed h hc)
  · have hkeep : ¬ e.writes s .err := fun hw => by
      obtain ⟨_, -, hrun, -⟩ := Event.writes_stack_or_err hr (.inr rfl) hw
      simp [hf] at hrun
    exact (applyEvent_writes h .err hkeep).trans hf

/-! ### The keys, the timers and the parameters -/

theorem Event.not_writes_params : ¬ e.writes s .params := by
  intro h
  rcases Event.writes_cases h (by simp) with
    ⟨program, -, h, -⟩ | ⟨rnd, i, -, -, -, h⟩ | ⟨-, h⟩ | ⟨k, b, -, h⟩ | ⟨-, h⟩
  · exact h rfl
  · exact Instr.not_writes_params h
  all_goals simp at h

theorem Event.writes_key {k : Key} (h : e.writes s (.key k)) : ∃ b, e = .setKey k b := by
  rcases Event.writes_cases h (by simp) with
    ⟨program, -, -, h⟩ | ⟨rnd, i, -, -, -, h⟩ | ⟨-, h⟩ | ⟨k', b, rfl, h⟩ | ⟨-, h⟩
  · exact absurd rfl (h k)
  · exact absurd h Instr.not_writes_key
  · simp at h
  · cases h
    exact ⟨b, rfl⟩
  · simp at h

/-- A timer changes by `Tick`, a reset, or an instruction that writes it (R25, R26, R270). -/
theorem Event.writes_timer (hel : el = .dt ∨ el = .st) (h : e.writes s el) :
    e = .tick ∨ (∃ program, e = .reset program) ∨
    ∃ rnd, e = .step rnd ∧ ∃ i, decodeWord s.fetchWord = some i ∧ i.writes el := by
  have hpc : el ≠ .pc := by rcases hel with rfl | rfl <;> simp
  rcases Event.writes_cases h hpc with
    ⟨program, rfl, -⟩ | ⟨rnd, i, rfl, -, hw, hi⟩ | ⟨rfl, -⟩ | ⟨k, b, -, h⟩ | ⟨-, h⟩
  · exact .inr (.inl ⟨program, rfl⟩)
  · exact .inr (.inr ⟨rnd, rfl, i, hw, hi⟩)
  · exact .inl rfl
  all_goals rcases hel with rfl | rfl <;> simp at h

/-- Settles O21: each element's writers, read off the frame of an event. -/
theorem keysTimersAndParametersOwnership : Obligations.KeysTimersAndParametersOwnership := by
  intro e s t h
  refine ⟨applyEvent_writes h .params Event.not_writes_params, fun k hc => ?_, fun hc => ?_, fun hc => ?_⟩
  · exact Event.writes_key (writes_of_changed h hc)
  · simpa [Instr.writes_dt] using Event.writes_timer (.inl rfl) (writes_of_changed h hc)
  · simpa [Instr.writes_st] using Event.writes_timer (.inr rfl) (writes_of_changed h hc)

end Sys2Proof.Machine
end

section
/-! PROOFS, the state (10_state.md). What no instruction reads: the sound timer and the redraw flag (R26, R31);
and the keys, but for the three instructions that test them (R30, R274). -/

namespace Sys2Proof.Machine

variable {s t : State}

/-! ### The instructions with two outcomes, case by case -/

theorem exec00EE_of_empty (h : s.stack = []) : exec00EE s = .next (s.setErr (some .stackUnderflow)) := by
  simp [exec00EE, h, raiseFatal]

theorem exec00EE_of_cons {a : Word} {rest : List Word} (h : s.stack = a :: rest) :
    exec00EE s = .next ((s.setStack rest).setPc a) := by
  simp [exec00EE, h]

theorem exec2NNN_of_full (nnn : BitVec 12) (h : s.sp = s.params.stackCapacity) :
    exec2NNN nnn s = .next (s.setErr (some .stackOverflow)) :=
  if_pos (decide_eq_true h)

theorem exec2NNN_of_room (nnn : BitVec 12) (h : s.sp ≠ s.params.stackCapacity) :
    exec2NNN nnn s = .next ((s.setStack (s.pc :: s.stack)).setPc (zextAddr nnn)) :=
  if_neg fun hf => h (of_decide_eq_true hf)

theorem execFX0A_of_none (x : Reg) (h : s.lastPressed = none) : execFX0A x s = .next s.rewindPc := by
  simp [execFX0A, h]

theorem execFX0A_of_pressed (x : Reg) {k : Key} (h : s.lastPressed = some k) :
    execFX0A x s = .next (s.writeV x (keyByte k)) := by
  simp [execFX0A, h]

/-! ### Another sound timer, another redraw flag, other keys -/

/-- The state with another sound timer, another redraw flag and other keys pressed. -/
def State.overlay (s : State) (b : Byte) (r : Bool) (keys : Vector Bool 16) : State :=
  { s with st := b, redraw := r, keys := keys }

section

variable (b : Byte) (r : Bool) (keys : Vector Bool 16)

theorem State.overlay_skipIf (c : Bool) :
    (s.overlay b r keys).skipIf c = (s.skipIf c).overlay b r keys := by
  cases c <;> rfl

theorem State.overlay_takeRnd : (s.overlay b r keys).takeRnd = s.takeRnd.overlay b r keys := by
  cases h : s.rndIn <;> simp [State.takeRnd, State.overlay, h]

/-- `CXNN` takes its random byte whatever sound timer, redraw flag and keys stand beside it. -/
theorem execCXNN_overlay (x : Reg) (nn : Byte) :
    execCXNN x nn (s.overlay b r keys) = .next ((s.takeRnd.writeV x (s.rnd &&& nn)).overlay b r keys) := by
  rw [execCXNN, State.overlay_takeRnd]
  rfl

/-- An instruction reads neither the sound timer nor the redraw flag, nor the keys unless it is one that tests
them: overlaid, it runs to the same state overlaid, and the new sound timer and redraw flag are those of the plain
run where the old ones were. -/
theorem exec_overlay {i : Instr} (hk : readsKeys i = true → keys = s.keys) (h : exec i s = .next t) :
    ∃ b' r', exec i (s.overlay b r keys) = .next (t.overlay b' r' keys) ∧
      (b = s.st → b' = t.st) ∧ (r = s.redraw → r' = t.redraw) := by
  cases i
  case op00EE =>
    rcases exec00EE_cases h with ⟨h0, rfl⟩ | ⟨a, rest, h0, rfl⟩
    · exact ⟨b, r, exec00EE_of_empty (s := s.overlay b r keys) h0, id, id⟩
    · exact ⟨b, r, exec00EE_of_cons (s := s.overlay b r keys) h0, id, id⟩
  case op2NNN nnn =>
    rcases exec2NNN_cases h with ⟨h0, rfl⟩ | ⟨h0, rfl⟩
    · exact ⟨b, r, exec2NNN_of_full (s := s.overlay b r keys) nnn h0, id, id⟩
    · exact ⟨b, r, exec2NNN_of_room (s := s.overlay b r keys) nnn h0, id, id⟩
  case op3XNN | op4XNN | op5XY0 | op9XY0 =>
    cases h
    exact ⟨b, r, congrArg _ (State.overlay_skipIf b r keys _), by simp [State.skipIf_eq]⟩
  case opEX9E | opEXA1 =>
    cases h
    obtain rfl := hk rfl
    exact ⟨b, r, congrArg _ (State.overlay_skipIf b r s.keys _), by simp [State.skipIf_eq]⟩
  case opFX0A x =>
    obtain rfl := hk rfl
    rcases execFX0A_cases h with ⟨h0, rfl⟩ | ⟨k, h0, rfl⟩
    · exact ⟨b, r, execFX0A_of_none (s := s.overlay b r s.keys) x h0, id, id⟩
    · exact ⟨b, r, execFX0A_of_pressed (s := s.overlay b r s.keys) x h0, id, id⟩
  case opCXNN x nn =>
    cases h
    refine ⟨b, r, execCXNN_overlay b r keys x nn, ?_⟩
    rw [State.takeRnd_eq]
    exact ⟨id, id⟩
  case opDXYN => cases h; exact ⟨b, true, rfl, id, fun _ => rfl⟩
  case opFX18 x => cases h; exact ⟨s.readV x, r, rfl, fun _ => rfl, id⟩
  all_goals cases h; exact ⟨b, r, rfl, id, id⟩

end

/-- An instruction leaves the keys alone (R30). -/
theorem exec_key {i : Instr} (h : exec i s = .next t) (k : Key) : t.key k = s.key k :=
  exec_writes h (.key k) Instr.not_writes_key

/-- Settles O22: the overlay is of the sound timer and the redraw flag, with the keys as they are. -/
theorem soundTimerAndRedrawUnread : Obligations.SoundTimerAndRedrawUnread := by
  intro i s t b r h
  obtain ⟨b', r', h', -, -⟩ := exec_overlay b r s.keys (fun _ => rfl) h
  refine ⟨_, h', fun el hel => ?_⟩
  cases el
  case st => exact absurd (.inl rfl) hel
  case redraw => exact absurd (.inr rfl) hel
  case key k => exact (exec_key h k).symm
  case rnd => exact ⟨rfl, rfl⟩
  all_goals rfl

/-- Settles O23: the overlay is of the keys, with the sound timer and the redraw flag as they are. -/
theorem keysReadOnlyByKeyInstructions : Obligations.KeysReadOnlyByKeyInstructions := by
  intro i s t keys hi h
  have hk : readsKeys i = true → keys = s.keys := fun hi' => by simp [hi] at hi'
  obtain ⟨b', r', h', hb, hr⟩ := exec_overlay s.st s.redraw keys hk h
  rw [hb rfl, hr rfl] at h'
  exact h'

end Sys2Proof.Machine
end


section
/-! PROOFS, memory (20_memory.md). The fetch (R62, R64, R65, R121), an instruction placed where the next step
fetches it (R90 to R95, R124), and a store into code (R74). -/

namespace Sys2Proof

/-! ### Decoding what was encoded (R95) -/

/-- Every well-formed instruction is the one its word decodes to: the decoder reads back each field the format
laid out. -/
theorem decodeWord_encode {i : Instr} (hi : i.wf = true) : decodeWord (encode i) = some i := by
  cases i
  case op00E0 | op00EE => rfl
  case op1NNN | op2NNN | opANNN | opBNNN => simp [decodeWord, encode, opField_NNN, nnnField_NNN]
  case op3XNN | op4XNN | op6XNN | op7XNN | opCXNN =>
    simp [decodeWord, encode, opField_XNN, xField_XNN, nnField_XNN]
  case op5XY0 | op9XY0 =>
    simp [decodeWord, encode, opField_XYN, decodeLowZero, xField_XYN, yField_XYN, nField_XYN]
  case op8XY0 | op8XY1 | op8XY2 | op8XY3 | op8XY4 | op8XY5 | op8XY6 =>
    simp [decodeWord, encode, opField_XYN, decodeFamily8, xField_XYN, yField_XYN, nField_XYN]
  case opDXYN x y n =>
    have hn : n < 16 := of_decide_eq_true hi
    simp [decodeWord, encode, opField_XYN, xField_XYN, yField_XYN, nField_XYN, Nat.mod_eq_of_lt hn]
  case opEX9E | opEXA1 => simp [decodeWord, encode, opField_XNN, decodeFamilyE, xField_XNN, nnField_XNN]
  case opFX07 | opFX0A | opFX15 | opFX18 | opFX1E | opFX29 | opFX33 | opFX55 | opFX65 =>
    simp [decodeWord, encode, opField_XNN, decodeFamilyF, xField_XNN, nnField_XNN]

/-- The high byte of a word, then the low one, make up the word (R62, R64). -/
theorem wordOfBytes_halves (w : Word) : wordOfBytes (w.extractLsb' 8 8) (w.extractLsb' 0 8) = w :=
  split_append (m := 8) (n := 8) w

theorem wordOfBytes_toNat (hi lo : Byte) : (wordOfBytes hi lo).toNat = 256 * hi.toNat + lo.toNat := by
  rw [wordOfBytes, BitVec.toNat_append, ← Nat.shiftLeft_add_eq_or_of_lt lo.isLt, Nat.shiftLeft_eq]
  omega

/-- All 16 bits of a word kept: the bytes the table's number stands for are the word's own. -/
theorem tableWordBytes_toNat (w : Word) : tableWordBytes 16 w.toNat = bytesOfWord w := by
  rw [tableWordBytes, Nat.mod_eq_of_lt w.isLt, BitVec.ofNat_toNat, BitVec.setWidth_eq]

end Sys2Proof

namespace Sys2Proof.Machine

variable {s t : State}

/-! ### Addresses that wrap (R61) -/

theorem ea_add_congr {a b : Nat} (h : ea a = ea b) (k : Nat) : ea (a + k) = ea (b + k) :=
  Nat.ModEq.add_right k h

/-- Settles O8: the word is the high byte above the low one, and a read goes by the address modulo 4096. -/
theorem fetchIsBigEndianAndWraps : Obligations.FetchIsBigEndianAndWraps := by
  intro s
  have hread : ∀ a, s.readMem (a % 4096) = s.readMem a := fun a => Memory.read_ea (ea_ea a)
  rw [hread, hread]
  exact wordOfBytes_toNat _ _

/-! ### A store that the next fetch reads (R66, R74) -/

/-- The bytes at two addresses in a row are read back as they were stored there. -/
theorem Memory.readWord_writeBytes (m : Memory) (a : Nat) (hi lo : Byte) :
    (m.writeBytes a [hi, lo]).readWord a = wordOfBytes hi lo := by
  have hread : ∀ k (hk : k < 2), (m.writeBytes a [hi, lo]).read (a + k) = [hi, lo][k] := fun k hk =>
    Memory.read_writeBytes_at (bs := [hi, lo]) hk (by simp [Config.memSize])
  exact congrArg₂ wordOfBytes (hread 0 (by decide)) (hread 1 (by decide))

/-- A word placed at `PC` is the one fetched (R121). -/
theorem State.placeAtPc_fetchWord (s : State) (w : Word) : (s.placeAtPc (bytesOfWord w)).fetchWord = w :=
  (Memory.readWord_writeBytes s.mem s.pc.toNat _ _).trans (wordOfBytes_halves w)

/-- Settles O7: the word fetched is the one placed, and it decodes to the instruction it encodes. -/
theorem stepRunsPlacedInstruction : Obligations.StepRunsPlacedInstruction := by
  intro s i hi
  have hfetch : (s.withFetchWord 16 (encode i).toNat).fetchWord = encode i := by
    rw [State.withFetchWord, tableWordBytes_toNat, State.placeAtPc_fetchWord]
  exact step_matched rfl (by rw [hfetch, decodeWord_encode hi])

/-- Bytes stored from `a` on, at most a memory's worth: a half of the word fetched that is one of them is fetched
as it was stored, another is fetched as before (R66, R74). -/
theorem fetchWord_half_of_store {a j : Nat} {bs : List Byte} (hmem : t.mem = s.mem.writeBytes a bs)
    (hpc : t.pc = s.pc) (hlen : bs.length ≤ Config.memSize) (hj : j < 2) :
    (∀ k (hk : k < bs.length), ea (s.pc.toNat + j) = ea (a + k) →
      t.fetchWord.extractLsb' (8 * (1 - j)) 8 = bs[k]) ∧
    ((∀ k < bs.length, ea (s.pc.toNat + j) ≠ ea (a + k)) →
      t.fetchWord.extractLsb' (8 * (1 - j)) 8 = s.fetchWord.extractLsb' (8 * (1 - j)) 8) := by
  rw [fetchWord_half t hj, fetchWord_half s hj, State.readMem, State.readMem, hmem, hpc]
  refine ⟨fun k hk hea => ?_, Memory.read_writeBytes_other⟩
  rw [Memory.read_ea hea, Memory.read_writeBytes_at hk hlen]

/-- The digit of weight `10 ^ (2 - k)` is the `k`-th one stored (R223). -/
theorem decimalDigits_toNat (b : Byte) {k : Nat} (hk : k < (decimalDigits b).length) :
    (decimalDigits b)[k].toNat = b.toNat / 10 ^ (2 - k) % 10 := by
  have hb := b.isLt
  have hk3 : k < 3 := hk
  obtain rfl | rfl | rfl : k = 0 ∨ k = 1 ∨ k = 2 := by omega
  all_goals simp only [decimalDigits, List.getElem_cons_zero, List.getElem_cons_succ, BitVec.toNat_ofNat]
  all_goals omega

/-- Settles O48: `FX55` stores the registers up to `VX`, `FX33` three digits, and each leaves `PC` alone. -/
theorem storeIntoCodeIsFetched : Obligations.StoreIntoCodeIsFetched := by
  intro x s t j hj
  refine ⟨fun h => ?_, fun h => ?_⟩
  · cases h
    have hlen : (s.regsUpTo x).length = x.val + 1 := s.regsUpTo_length x
    have hle : x.val + 1 ≤ 16 := x.isLt
    obtain ⟨hstored, hother⟩ := fetchWord_half_of_store (s := s)
      (t := (s.storeBytes s.base (s.regsUpTo x)).bumpI x) rfl rfl (hlen ▸ hle.trans (by decide)) hj
    refine ⟨fun k hk hea => ?_, fun hne => hother fun k hk => ?_⟩
    · have hk' : k.val < (s.regsUpTo x).length := by rw [hlen]; exact Nat.lt_succ_of_le hk
      rw [hstored k.val hk' hea, State.regsUpTo_get]
    · rw [hlen] at hk
      exact hne ⟨k, by omega⟩ (Nat.le_of_lt_succ hk)
  · cases h
    obtain ⟨hstored, hother⟩ := fetchWord_half_of_store (s := s)
      (t := s.storeBytes s.base (decimalDigits (s.readV x))) rfl rfl (by simp [decimalDigits, Config.memSize]) hj
    refine ⟨fun k hk hea => ?_, hother⟩
    exact (congrArg BitVec.toNat (hstored k hk hea)).trans (decimalDigits_toNat _ hk)

end Sys2Proof.Machine
end

section
/-! PROOFS, memory (20_memory.md). Who writes memory (R76). -/

namespace Sys2Proof

theorem Instr.writes_mem {i : Instr} {a : Nat} :
    i.writes (.mem a) ↔ ∃ x, i = .opFX33 x ∨ i = .opFX55 x := by
  cases i <;> simp [Instr.writes]

namespace Machine

/-- Settles O17: of the events only a reset and a step may write memory, and a step does so on a running machine,
by an instruction that may. -/
theorem onlyStoresWriteMemory : Obligations.OnlyStoresWriteMemory := by
  intro e s t a h hc
  rcases Event.writes_cases (el := .mem a) (writes_of_changed h hc) (by simp) with
    ⟨program, rfl, -⟩ | ⟨rnd, i, rfl, hrun, hw, hi⟩ | ⟨-, h⟩ | ⟨k, b, -, h⟩ | ⟨-, h⟩
  · exact .inl ⟨program, rfl⟩
  · obtain ⟨x, rfl | rfl⟩ := Instr.writes_mem.1 hi
    · exact .inr ⟨rnd, rfl, hrun, x, .inl hw⟩
    · exact .inr ⟨rnd, rfl, hrun, x, .inr hw⟩
  all_goals simp at h

end Machine

end Sys2Proof
end

section
/-! PROOFS, memory (20_memory.md). What a program sees of `I`: its value modulo 4096 (R78). -/

namespace Sys2Proof.Machine

/-! ### An access goes by its base modulo 4096 (R61, R227) -/

section

variable {a b : Nat}

theorem Memory.write_congr (m : Memory) (h : ea a = ea b) (v : Byte) : m.write a v = m.write b v := by
  simp only [Memory.write, h]

theorem Memory.writeBytes_congr (m : Memory) (h : ea a = ea b) (bs : List Byte) :
    m.writeBytes a bs = m.writeBytes b bs := by
  induction bs generalizing m a b with
  | nil => rfl
  | cons v bs ih => rw [Memory.writeBytes, Memory.writeBytes, Memory.write_congr m h, ih _ (ea_add_congr h 1)]

theorem State.storeBytes_congr (s : State) (h : ea a = ea b) (bs : List Byte) :
    s.storeBytes a bs = s.storeBytes b bs := by
  rw [State.storeBytes, State.storeBytes, Memory.writeBytes_congr s.mem h]

theorem State.regsFromMem_congr (s : State) (x : Reg) (h : ea a = ea b) :
    s.regsFromMem x a = s.regsFromMem x b := by
  have hread : ∀ k, s.readMem (a + k) = s.readMem (b + k) := fun k => Memory.read_ea (ea_add_congr h k)
  simp only [State.regsFromMem, hread]

theorem Drawing.sprite_congr (d : Drawing) (m : Memory) (x0 y0 n : Nat) (h : ea a = ea b) :
    d.sprite m a x0 y0 n = d.sprite m b x0 y0 n := by
  have hread : ∀ k, m.read (a + k) = m.read (b + k) := fun k => Memory.read_ea (ea_add_congr h k)
  simp only [Drawing.sprite, hread]

end

/-! ### Another `I`, the same modulo 4096 -/

section

variable {s t : State} {a : Word}

/-- Two words added to the same one differ by a multiple of 4096 where they did before. -/
theorem ea_word_add (h : ea a.toNat = ea s.i.toNat) (c : Word) :
    ea (a + c).toNat = ea (s.i + c).toNat := by
  simp only [ea, Config.memSize, BitVec.toNat_add] at *
  omega

theorem State.setI_skipIf (a : Word) (c : Bool) : (s.setI a).skipIf c = (s.skipIf c).setI a := by
  cases c <;> rfl

theorem State.setI_takeRnd (a : Word) : (s.setI a).takeRnd = s.takeRnd.setI a := by
  cases h : s.rndIn <;> simp [State.takeRnd, State.setI, h]

/-- With an `I` that is the same modulo 4096, the same sprite is drawn (R142). -/
theorem State.setI_drawSprite (h : ea a.toNat = ea s.i.toNat) (x y : Reg) (n : Nat) :
    (s.setI a).drawSprite x y n = s.drawSprite x y n :=
  Drawing.sprite_congr _ s.mem _ _ n h

/-- With an `I` that is the same modulo 4096, the same bytes are stored at the same addresses (R223, R224). -/
theorem State.setI_storeBytes (h : ea a.toNat = ea s.i.toNat) (bs : List Byte) :
    (s.setI a).storeBytes a.toNat bs = (s.storeBytes s.base bs).setI a :=
  State.storeBytes_congr (s.setI a) h bs

/-- With an `I` that is the same modulo 4096, the same bytes are loaded (R225). -/
theorem State.setI_regsFromMem (h : ea a.toNat = ea s.i.toNat) (x : Reg) :
    (s.setI a).regsFromMem x a.toNat = s.regsFromMem x s.base :=
  State.regsFromMem_congr s x h

/-- With an `I` that is the same modulo 4096, an instruction runs to the same state but for `I`, and the two are
the same modulo 4096 there. -/
theorem exec_setI {i : Instr} (ha : ea a.toNat = ea s.i.toNat) (h : exec i s = .next t) :
    ∃ a', exec i (s.setI a) = .next (t.setI a') ∧ ea a'.toNat = ea t.i.toNat := by
  cases i
  case op00EE =>
    rcases exec00EE_cases h with ⟨h0, rfl⟩ | ⟨r, rest, h0, rfl⟩
    · exact ⟨a, exec00EE_of_empty (s := s.setI a) h0, ha⟩
    · exact ⟨a, exec00EE_of_cons (s := s.setI a) h0, ha⟩
  case op2NNN nnn =>
    rcases exec2NNN_cases h with ⟨h0, rfl⟩ | ⟨h0, rfl⟩
    · exact ⟨a, exec2NNN_of_full (s := s.setI a) nnn h0, ha⟩
    · exact ⟨a, exec2NNN_of_room (s := s.setI a) nnn h0, ha⟩
  case opFX0A x =>
    rcases execFX0A_cases h with ⟨h0, rfl⟩ | ⟨k, h0, rfl⟩
    · exact ⟨a, execFX0A_of_none (s := s.setI a) x h0, ha⟩
    · exact ⟨a, execFX0A_of_pressed (s := s.setI a) x h0, ha⟩
  case op3XNN | op4XNN | op5XY0 | op9XY0 | opEX9E | opEXA1 =>
    cases h
    exact ⟨a, congrArg _ (State.setI_skipIf a _), by rwa [State.skipIf_eq]⟩
  case opCXNN x nn =>
    cases h
    refine ⟨a, ?_, by rwa [State.takeRnd_eq]⟩
    rw [exec, execCXNN, State.setI_takeRnd]
    rfl
  case opDXYN x y n =>
    cases h
    refine ⟨a, ?_, ha⟩
    rw [exec, execDXYN, State.setI_drawSprite ha]
    rfl
  case opANNN nnn => cases h; exact ⟨_, rfl, rfl⟩
  case opFX29 x => cases h; exact ⟨_, rfl, rfl⟩
  case opFX1E x => cases h; exact ⟨_, rfl, ea_word_add ha _⟩
  case opFX33 x => cases h; exact ⟨a, congrArg Host.Outcome.next (State.setI_storeBytes ha _), ha⟩
  case opFX55 x =>
    cases h
    refine ⟨a + BitVec.ofNat 16 (x.val + 1), ?_, ea_word_add ha _⟩
    rw [exec, execFX55, State.setI_base, State.setI_storeBytes ha]
    rfl
  case opFX65 x =>
    cases h
    refine ⟨a + BitVec.ofNat 16 (x.val + 1), ?_, ea_word_add ha _⟩
    rw [exec, execFX65, State.setI_base, State.setI_regsFromMem ha]
    rfl
  all_goals cases h; exact ⟨a, rfl, ha⟩

end

/-- Settles O24: the other state is the first with `I` set, and so are the states the two run to. -/
theorem indexObservedModuloMemorySize : Obligations.IndexObservedModuloMemorySize := by
  intro i s t a ha h
  obtain ⟨a', h', ha'⟩ := exec_setI ha h
  exact ⟨t.setI a', h', ha', changesOnly_setI t a'⟩

end Sys2Proof.Machine
end

section
/-! PROOFS, encoding (30_encoding.md). Decode and encode are inverse on well-formed instructions (R90 to R95,
R101). -/

namespace Sys2Proof

/-! ### Bytes and sample words -/

/-- The bytes of a word that is an instruction, whatever follows them, decode to it (R64, R90). -/
theorem decode_bytesOfWord_append {w : Word} {i : Instr} (h : decodeWord w = some i) (rest : List Byte) :
    decode (bytesOfWord w ++ rest) = .instr i rest := by
  simp [decode, bytesOfWord, wordOfBytes_halves, h]

/-- Settles O2: the bytes make up the word again, and the decoder reads back what the encoder laid out. -/
theorem decodeEncodeRoundTrip : Obligations.DecodeEncodeRoundTrip :=
  fun _ rest hi => decode_bytesOfWord_append (decodeWord_encode hi) rest

/-- Settles O1: each word is written out, so the decoder runs on it. -/
theorem sampleWordsDecode : Obligations.SampleWordsDecode := by
  unfold Obligations.SampleWordsDecode
  decide

/-! ### A word whose literal digits are known, from its free fields (R91, R92) -/

section

variable {w : Word} {op : BitVec 4} (hop : opField w = op)
include hop

theorem word_of_op_NNN : op ++ nnnField w = w := hop ▸ word_NNN w

theorem word_of_op_XNN : op ++ nibble (xField w) ++ nnField w = w := hop ▸ word_XNN w

theorem word_of_op_XYN : op ++ nibble (xField w) ++ nibble (yField w) ++ nField w = w := hop ▸ word_XYN w

theorem word_of_op_XY {n : BitVec 4} (hn : nField w = n) :
    op ++ nibble (xField w) ++ nibble (yField w) ++ n = w := hn ▸ word_of_op_XYN hop

theorem word_of_op_X {b : Byte} (hb : nnField w = b) : op ++ nibble (xField w) ++ b = w :=
  hb ▸ word_of_op_XNN hop

end

/-! ### What is decoded encodes to the word (R95, R101)

A family answers an instruction only where the digits it tests are that instruction's own. -/

section

variable {w : Word} {i : Instr}

theorem encode_of_decodeFamily0 (h : decodeFamily0 w = some i) : i.wf = true ∧ encode i = w := by
  unfold decodeFamily0 at h
  split_ifs at h with h1 h2
  · cases h; exact ⟨rfl, h1.symm⟩
  · cases h; exact ⟨rfl, h2.symm⟩

theorem eq_of_decodeLowZero {j : Instr} (h : decodeLowZero w j = some i) : nField w = 0 ∧ j = i := by
  simpa [decodeLowZero] using h

theorem encode_of_decodeFamily8 (hop : opField w = 8) (h : decodeFamily8 w = some i) :
    i.wf = true ∧ encode i = w := by
  unfold decodeFamily8 at h
  split at h
  case h_8 => cases h
  all_goals
    rename_i hn
    cases h
    exact ⟨rfl, word_of_op_XY hop (BitVec.eq_of_toNat_eq hn)⟩

theorem encode_of_decodeFamilyE (hop : opField w = 0xE) (h : decodeFamilyE w = some i) :
    i.wf = true ∧ encode i = w := by
  unfold decodeFamilyE at h
  split_ifs at h with hb hb
  all_goals cases h; exact ⟨rfl, word_of_op_X hop hb⟩

theorem encode_of_decodeFamilyF (hop : opField w = 0xF) (h : decodeFamilyF w = some i) :
    i.wf = true ∧ encode i = w := by
  unfold decodeFamilyF at h
  split_ifs at h with hb hb hb hb hb hb hb hb hb
  all_goals cases h; exact ⟨rfl, word_of_op_X hop hb⟩

/-- A word decodes only to a well-formed instruction that encodes to it: the literal digits the decoder tests and
the fields it reads are the whole word. -/
theorem encode_of_decodeWord (h : decodeWord w = some i) : i.wf = true ∧ encode i = w := by
  unfold decodeWord at h
  split at h
  case h_1 => exact encode_of_decodeFamily0 h
  case h_2 hop | h_3 hop | h_11 hop | h_12 hop =>
    cases h
    exact ⟨rfl, word_of_op_NNN (BitVec.eq_of_toNat_eq hop)⟩
  case h_4 hop | h_5 hop | h_7 hop | h_8 hop | h_13 hop =>
    cases h
    exact ⟨rfl, word_of_op_XNN (BitVec.eq_of_toNat_eq hop)⟩
  case h_6 hop | h_10 hop =>
    obtain ⟨hn, rfl⟩ := eq_of_decodeLowZero h
    exact ⟨rfl, word_of_op_XY (BitVec.eq_of_toNat_eq hop) hn⟩
  case h_9 hop => exact encode_of_decodeFamily8 (BitVec.eq_of_toNat_eq hop) h
  case h_14 hop =>
    cases h
    refine ⟨decide_eq_true (nField w).isLt, ?_⟩
    rw [encode, BitVec.ofNat_toNat, BitVec.setWidth_eq]
    exact word_of_op_XYN (BitVec.eq_of_toNat_eq hop)
  case h_15 hop => exact encode_of_decodeFamilyE (BitVec.eq_of_toNat_eq hop) h
  case h_16 =>
    have hlt : (opField w).toNat < 16 := (opField w).isLt
    have hop : (opField w).toNat = 15 := by
      simp only [imp_false] at *
      omega
    exact encode_of_decodeFamilyF (BitVec.eq_of_toNat_eq hop) h

end

/-- Settles O3: the decoder reads back what was encoded, and answers only what encodes to the word. -/
theorem decodeGivesTheOnlyEncoding : Obligations.DecodeGivesTheOnlyEncoding :=
  fun _ _ => ⟨encode_of_decodeWord, fun ⟨hi, hw⟩ => hw ▸ decodeWord_encode hi⟩

end Sys2Proof
end

section
/-! PROOFS, encoding (30_encoding.md). The rows of the opcode map, matched by mask and value (R94, R101). -/

namespace Sys2Proof

/-! ### A field that the mask keeps whole is the field of the masked word -/

section

variable {w m v : Word} (h : w &&& m = v)
include h

theorem extract_of_mask {k l : Nat} (hm : m.extractLsb' k l = BitVec.allOnes l) :
    w.extractLsb' k l = v.extractLsb' k l := by
  rw [← h, BitVec.extractLsb'_and, hm, BitVec.and_allOnes]

theorem opField_of_mask (hm : opField m = BitVec.allOnes 4) : opField w = opField v := extract_of_mask h hm

theorem nField_of_mask (hm : nField m = BitVec.allOnes 4) : nField w = nField v := extract_of_mask h hm

theorem nnField_of_mask (hm : nnField m = BitVec.allOnes 8) : nnField w = nnField v := extract_of_mask h hm

end

/-! ### The rows and the decoder -/

/-- Every instruction stands in the opcode map under its own row, which does not depend on its operands. -/
theorem opcodeRow_mem (i : Instr) : opcodeRow i ∈ opcodeTable := by
  cases i <;> simp [opcodeTable, opcodeRow]

section

open Laws.EncodesItsRow

/-- The word of a well-formed instruction matches its row. -/
theorem encode_matches_opcodeRow (i : Instr) : Statement i := by
  cases i
  exacts [op00E0, op00EE, op1NNN _, op2NNN _, op3XNN _ _, op4XNN _ _, op5XY0 _ _, op6XNN _ _, op7XNN _ _,
    op8XY0 _ _, op8XY1 _ _, op8XY2 _ _, op8XY3 _ _, op8XY4 _ _, op8XY5 _ _, op8XY6 _ _, op9XY0 _ _, opANNN _,
    opBNNN _, opCXNN _ _, opDXYN _ _ _, opEX9E _, opEXA1 _, opFX07 _, opFX0A _, opFX15 _, opFX18 _, opFX1E _,
    opFX29 _, opFX33 _, opFX55 _, opFX65 _]

end

/-- A word that matches a row decodes to an instruction of that row: the mask keeps every digit the decoder tests. -/
theorem decodeWord_of_matches_row {w : Word} (i : Instr) (h : w &&& (opcodeRow i).mask = (opcodeRow i).value) :
    (decodeWord w).map opcodeRow = some (opcodeRow i) := by
  cases i
  all_goals dsimp only [opcodeRow] at h
  case op00E0 | op00EE =>
    obtain rfl := BitVec.and_allOnes.symm.trans h
    rfl
  case op1NNN | op2NNN | op3XNN | op4XNN | op6XNN | op7XNN | opANNN | opBNNN | opCXNN | opDXYN =>
    have hop := opField_of_mask h rfl
    rw [decodeWord, hop]
    rfl
  case op5XY0 | op9XY0 =>
    have hop := opField_of_mask h rfl
    have hn := nField_of_mask h rfl
    rw [decodeWord, hop]
    exact congrArg _ (if_pos hn)
  case op8XY0 | op8XY1 | op8XY2 | op8XY3 | op8XY4 | op8XY5 | op8XY6 =>
    have hop := opField_of_mask h rfl
    have hn := nField_of_mask h rfl
    rw [decodeWord, hop, decodeFamily8, hn]
    rfl
  case opEX9E | opEXA1 =>
    have hop := opField_of_mask h rfl
    have hnn := nnField_of_mask h rfl
    rw [decodeWord, hop, decodeFamilyE, hnn]
    rfl
  case opFX07 | opFX0A | opFX15 | opFX18 | opFX1E | opFX29 | opFX33 | opFX55 | opFX65 =>
    have hop := opField_of_mask h rfl
    have hnn := nnField_of_mask h rfl
    rw [decodeWord, hop, decodeFamilyF, hnn]
    rfl

/-- Settles O4: a decoded word is its instruction's encoding, which matches the row; a word that matches a row
decodes to an instruction of it. -/
theorem decodeFollowsOpcodeTable : Obligations.DecodeFollowsOpcodeTable := by
  refine ⟨rfl, fun w i h => ?_, fun w row hrow h => ?_⟩
  · obtain ⟨hi, rfl⟩ := encode_of_decodeWord h
    exact ⟨opcodeRow_mem i, encode_matches_opcodeRow i hi⟩
  · obtain ⟨i, -, rfl⟩ := List.mem_map.1 hrow
    exact Option.map_eq_some_iff.1 (decodeWord_of_matches_row i h)

end Sys2Proof
end

section
/-! PROOFS, encoding (30_encoding.md). The words that match no row (R96). -/

namespace Sys2Proof

variable {w : Word}

/-! ### Fields as numbers (R91) -/

theorem opField_toNat (w : Word) : (opField w).toNat = w.toNat / 4096 := by
  rw [opField, BitVec.extractLsb'_toNat, Nat.shiftRight_eq_div_pow]
  omega

theorem nField_toNat (w : Word) : (nField w).toNat = w.toNat % 16 := by
  simp [nField]

theorem nnField_toNat (w : Word) : (nnField w).toNat = w.toNat % 256 := by
  simp [nnField]

/-! ### Where each family answers nothing -/

/-- One test of a family: it fails, and so do the ones after it. -/
theorem ite_some_eq_none {α : Type} {p : Prop} [Decidable p] {a : α} {o : Option α} :
    (if p then some a else o) = none ↔ ¬ p ∧ o = none := by
  by_cases hp : p <;> simp [hp]

theorem decodeFamily0_eq_none : decodeFamily0 w = none ↔ w ≠ 0x00E0 ∧ w ≠ 0x00EE := by
  simp [decodeFamily0, ite_some_eq_none]

theorem decodeLowZero_eq_none {i : Instr} : decodeLowZero w i = none ↔ w.toNat % 16 ≠ 0 := by
  simp [decodeLowZero, ← nField_toNat, ← BitVec.toNat_inj]

theorem decodeFamily8_eq_none : decodeFamily8 w = none ↔ 7 ≤ w.toNat % 16 := by
  rw [decodeFamily8, nField_toNat]
  split
  case h_8 =>
    refine iff_of_true rfl ?_
    simp only [imp_false] at *
    omega
  all_goals simp [*]

theorem decodeFamilyE_eq_none : decodeFamilyE w = none ↔ w.toNat % 256 ∉ [0x9E, 0xA1] := by
  simp [decodeFamilyE, ite_some_eq_none, ← nnField_toNat, ← BitVec.toNat_inj]

theorem decodeFamilyF_eq_none : decodeFamilyF w = none ↔
    w.toNat % 256 ∉ [0x07, 0x0A, 0x15, 0x18, 0x1E, 0x29, 0x33, 0x55, 0x65] := by
  simp [decodeFamilyF, ite_some_eq_none, ← nnField_toNat, ← BitVec.toNat_inj]

/-- Settles O5: family by family, the words whose tests all fail; a family with no test leaves no word unmatched. -/
theorem unmatchedWordsExactly : Obligations.UnmatchedWordsExactly := by
  intro w
  have hlow : w.toNat < 0x1000 ↔ w.toNat / 4096 = 0 := by omega
  rw [hlow, decodeWord, opField_toNat]
  split
  case h_1 hop => simp [hop, decodeFamily0_eq_none]
  case h_6 hop | h_10 hop => simp [hop, decodeLowZero_eq_none]
  case h_9 hop => simp [hop, decodeFamily8_eq_none]
  case h_15 hop => simp [hop, decodeFamilyE_eq_none]
  case h_16 =>
    have hop : w.toNat / 4096 = 15 := by
      have hlt := w.isLt
      simp only [imp_false] at *
      omega
    simp [hop, decodeFamilyF_eq_none]
  case h_2 hop | h_3 hop | h_4 hop | h_5 hop | h_7 hop | h_8 hop | h_11 hop | h_12 hop | h_13 hop | h_14 hop =>
    simp [hop]

end Sys2Proof
end

section
/-! PROOFS, the step cycle (40_step_cycle.md). One step: the instruction it runs (R121 to R124), an unmatched word
(R126), a latched error (R130), and that it completes with a result (R125, R129). -/

namespace Sys2Proof.Machine

variable {s t : State}

/-- Settles O6: the word fetched is the byte at `PC` above the byte after it. -/
theorem stepRunsDecodedInstruction : Obligations.StepRunsDecodedInstruction :=
  fun _ _ hrun hw => step_matched hrun hw

/-! ### The result of a step (R125) -/

theorem stepResult_halted {e : FatalError} (h : s.err = some e) : stepResult s = some (.halted e) := by
  simp [stepResult, h]

theorem stepResult_unmatched (h : s.err = none) (hw : decodeWord s.fetchWord = none) :
    stepResult s = some (.unknownOpcode s.fetchWord) := by
  simp [stepResult, h, hw]

theorem stepResult_matched {i : Instr} (h : s.err = none) (hw : decodeWord s.fetchWord = some i)
    (hx : exec i s.advancePc = .next t) : stepResult s = some (resultAfter t) := by
  simp [stepResult, h, hw, hx]

/-- An instruction that has run reports no bounds error (R264). -/
theorem resultAfter_ne_outOfBounds (t : State) : resultAfter t ≠ .outOfBounds := by
  unfold resultAfter
  split <;> simp

/-- Settles O9: the step is the advance of `PC` alone. -/
theorem unmatchedWordOnlyAdvances : Obligations.UnmatchedWordOnlyAdvances :=
  fun s hrun hw => ⟨stepResult_unmatched hrun hw, _, step_unmatched hrun hw, rfl, changesOnly_advancePc s⟩

/-- A state that a step leaves as it is stays so for any number of steps. -/
theorem run_of_step_self {M : Host.Core} {s : M.State} (h : M.step s = .next s) (k : Nat) :
    M.run k s = .next s := by
  induction k with
  | zero => rfl
  | succ k ih => simp [Host.Core.run, h, ih]

/-- Settles O10: a step of a halted machine leaves the state as it was, so every further one does. -/
theorem haltedStepsChangeNothing : Obligations.HaltedStepsChangeNothing :=
  fun _ _ he => ⟨stepResult_halted he, run_of_step_self (M := Sys2Proof.core) (step_halted he)⟩

/-! ### Every step completes (R129) -/

/-- Every instruction runs to a next state, the two that raise an error included. -/
theorem exec_completes (i : Instr) (s : State) : ∃ t, exec i s = .next t := by
  cases i
  case op00EE =>
    cases h : s.stack with
    | nil => exact ⟨_, exec00EE_of_empty h⟩
    | cons a rest => exact ⟨_, exec00EE_of_cons h⟩
  case op2NNN nnn =>
    by_cases h : s.sp = s.params.stackCapacity
    · exact ⟨_, exec2NNN_of_full nnn h⟩
    · exact ⟨_, exec2NNN_of_room nnn h⟩
  case opFX0A x =>
    cases h : s.lastPressed with
    | none => exact ⟨_, execFX0A_of_none x h⟩
    | some k => exact ⟨_, execFX0A_of_pressed x h⟩
  all_goals exact ⟨_, rfl⟩

/-- Settles O11: halted, on an unmatched word, and on an instruction, which runs to a next state, the step answers
one and has the result of its kind. -/
theorem everyStepCompletes : Obligations.EveryStepCompletes := by
  intro s
  cases hs : s.err with
  | some e => exact ⟨⟨s, step_halted hs⟩, _, stepResult_halted hs, by simp⟩
  | none =>
    cases hw : decodeWord s.fetchWord with
    | none => exact ⟨⟨_, step_unmatched hs hw⟩, _, stepResult_unmatched hs hw, by simp⟩
    | some i =>
      obtain ⟨t, hx⟩ := exec_completes i s.advancePc
      exact ⟨⟨t, (step_matched hs hw).trans hx⟩, _, stepResult_matched hs hw hx, resultAfter_ne_outOfBounds t⟩

theorem step_completes (s : State) : ∃ t, step s = .next t := (everyStepCompletes s).1

end Sys2Proof.Machine
end

section
/-! PROOFS, the step cycle (40_step_cycle.md). The event `Step(RND)` (R127), and runs of events: they complete and
keep the invariant (R129, R132, R284). -/

namespace Sys2Proof.Machine

variable {s t : State}

/-! ### The random byte of a step (R127, R199) -/

/-- A step that runs no `CXNN` ignores the supply of random bytes and leaves it alone. -/
theorem step_supply (bytes : List Byte) (h : step s = .next t)
    (hc : s.err = none → ∀ x nn, decodeWord s.fetchWord ≠ some (.opCXNN x nn)) :
    step (s.restoreRnd bytes) = .next (t.restoreRnd bytes) ∧ t.rndIn = s.rndIn := by
  rcases step_cases h with ⟨e, he, rfl⟩ | ⟨hrun, hw, rfl⟩ | ⟨i, hrun, hw, hx⟩
  · exact ⟨step_halted he, rfl⟩
  · exact ⟨step_unmatched (s := s.restoreRnd bytes) hrun hw, rfl⟩
  · have hi : ∀ x nn, i ≠ .opCXNN x nn := fun x nn hi => hc hrun x nn (hi ▸ hw)
    obtain ⟨hx', hrnd⟩ := exec_supply bytes hx hi
    exact ⟨(step_matched (s := s.restoreRnd bytes) hrun hw).trans hx', hrnd⟩

/-- The event is the step with the byte supplied, and the supply put back. -/
theorem stepWith_of_step {rnd : Byte} (h : step (s.supplyRnd rnd) = .next t) :
    stepWith rnd s = .next (t.restoreRnd s.rndIn) := by
  simp [stepWith, h]

/-- `CXNN` with a byte supplied takes that byte and leaves the bytes behind it (R199). -/
theorem execCXNN_supplyRnd (x : Reg) (nn rnd : Byte) (s : State) :
    execCXNN x nn (s.supplyRnd rnd) = .next (s.writeV x (rnd &&& nn)) := rfl

/-- Settles O59: a step that runs no `CXNN` goes the same way with `RND` supplied, and the supply put back is the
one it left; `CXNN` takes `RND` itself. -/
theorem stepEventIsStep : Obligations.StepEventIsStep := by
  refine fun rnd s => ⟨fun hc => ?_, fun x nn hrun hw => ?_⟩
  · obtain ⟨t, ht⟩ := step_completes s
    obtain ⟨hsupply, hrnd⟩ := step_supply (rnd :: s.rndIn) ht hc
    calc applyEvent (.step rnd) s = .next (t.restoreRnd s.rndIn) :=
          stepWith_of_step (t := t.restoreRnd (rnd :: s.rndIn)) hsupply
      _ = .next t := by rw [← hrnd]; rfl
      _ = step s := ht.symm
  · exact stepWith_of_step ((step_matched (s := s.supplyRnd rnd) hrun hw).trans
      (execCXNN_supplyRnd x nn rnd s.advancePc))

/-! ### Events and runs -/

/-- Memory after a reset is in its canonical form: it is written from the empty memory (R303, R304). -/
theorem resetMemory_wf (p : Params) (program : List Byte) : (resetMemory p program).wf := by
  have hinit : (p.memInit.foldl (fun (m : Memory) c => m.write c.1 c.2) ⟨[]⟩).wf :=
    List.foldlRecOn p.memInit _ Memory.wf_empty fun _ hm c _ => Memory.wf_write hm c.1 c.2
  exact Memory.wf_writeBytes (Memory.wf_writeBytes hinit _ _) _ _

theorem resetWith_inv (hs : s.inv) (program : List Byte) : (s.resetWith program).inv := by
  obtain ⟨-, -, hp⟩ := hs
  exact ⟨resetMemory_wf s.params program, Nat.zero_le _, hp⟩

theorem applyEvent_completes (e : Event) (s : State) : ∃ t, applyEvent e s = .next t := by
  cases e with
  | step rnd =>
    obtain ⟨t, ht⟩ := step_completes (s.supplyRnd rnd)
    exact ⟨_, stepWith_of_step ht⟩
  | reset | tick | setKey | ackRedraw => exact ⟨_, rfl⟩

/-- Every event keeps the invariant: a step does, a reset builds it again, and the others touch no part of it. -/
theorem applyEvent_inv {e : Event} (hs : s.inv) (h : applyEvent e s = .next t) : t.inv := by
  cases e with
  | reset program => cases h; exact resetWith_inv hs program
  | step rnd =>
    obtain ⟨u, hu, rfl⟩ := stepWith_cases h
    exact stepKeepsInvariant (s.supplyRnd rnd) u hs hu
  | tick | setKey | ackRedraw => cases h; exact hs

/-- Settles O16, by induction on the events, from any state that meets the invariant: the first completes and keeps
it, and the rest run from there. -/
theorem runsCompleteAndKeepInvariant : Obligations.RunsCompleteAndKeepInvariant := by
  intro es
  induction es with
  | nil => exact fun s hs => ⟨s, rfl, hs⟩
  | cons e es ih =>
    intro s hs
    obtain ⟨t, ht⟩ := applyEvent_completes e s
    simpa [runEvents, ht] using ih t (applyEvent_inv hs ht)

end Sys2Proof.Machine
end

section
/-! PROOFS, the step cycle (40_step_cycle.md). How a step moves `PC` (R131). -/

namespace Sys2Proof.Machine

variable {s t : State} {i : Instr}

/-! ### Who moves `PC` -/

/-- The instructions that may set `PC` are the skips, the transfers and `FX0A`. -/
theorem not_writes_pc (hskip : skipCondition i s = none) (htrans : isTransfer i = false)
    (hwait : ∀ x, i ≠ .opFX0A x) : ¬ i.writes .pc := by
  cases i <;> simp_all [Instr.writes, skipCondition, isTransfer]

/-- The condition of a skip does not depend on `PC`. -/
theorem skipCondition_advancePc (i : Instr) (s : State) : skipCondition i s.advancePc = skipCondition i s := by
  cases i <;> rfl

/-- A skip moves `PC` a further 2 exactly when its condition holds (R184). -/
theorem exec_skip {c : Prop} (hc : skipCondition i s = some c) :
    ∃ b : Bool, (b = true ↔ c) ∧ exec i s = .next (s.skipIf b) := by
  cases i
  case op3XNN | op4XNN | op5XY0 | op9XY0 | opEX9E | opEXA1 =>
    cases hc
    exact ⟨_, by simp, rfl⟩
  all_goals cases hc

theorem exec_skip_pc {c : Prop} (hc : skipCondition i s = some c) (h : exec i s = .next t) :
    (c → t.pc = s.pc + 2) ∧ (¬ c → t.pc = s.pc) := by
  obtain ⟨b, hb, hx⟩ := exec_skip hc
  rw [hx] at h
  cases h
  rw [← hb, State.skipIf_eq]
  exact ⟨fun h => if_pos h, fun h => if_neg h⟩

/-! ### The keys `FX0A` scans (R243) -/

/-- An ascending scan answers nothing exactly when it starts with nothing and finds no key pressed. -/
theorem foldl_pressed_eq_none (pressed : Key → Bool) (ks : List Key) (found : Option Key) :
    ks.foldl (fun found k => if pressed k then some k else found) found = none ↔
      found = none ∧ ∀ k ∈ ks, pressed k = false := by
  induction ks generalizing found with
  | nil => simp
  | cons k ks ih => cases h : pressed k <;> simp [ih, h]

theorem State.lastPressed_eq_none : s.lastPressed = none ↔ ¬ ∃ k, s.key k = true := by
  simp [State.lastPressed, foldl_pressed_eq_none]

/-- `FX0A` stays at itself until a key is pressed (R243). -/
theorem execFX0A_pc {x : Reg} (h : execFX0A x s.advancePc = .next t) :
    t.pc = if ∃ k, s.key k = true then s.pc + 2 else s.pc := by
  have hkeys : s.advancePc.lastPressed = none ↔ ¬ ∃ k, s.key k = true := State.lastPressed_eq_none
  rcases execFX0A_cases h with ⟨h0, rfl⟩ | ⟨k, h0, rfl⟩
  · rw [if_neg (hkeys.1 h0), State.rewindPc_advancePc]
  · have hpressed : ∃ k, s.key k = true := by
      by_contra hno
      simp [hkeys.2 hno] at h0
    rw [if_pos hpressed]
    rfl

/-! ### The targets -/

/-- The sum of a byte and a 12-bit address fits 16 bits (R163). -/
theorem zextByte_add_zextAddr_toNat (b : Byte) (nnn : BitVec 12) :
    (zextByte b + zextAddr nnn).toNat = b.toNat + nnn.toNat := by
  simp only [zextByte, zextAddr, BitVec.toNat_add, BitVec.toNat_setWidth]
  omega

/-- Settles O13: an unmatched word only advances `PC`; a matched one runs its instruction with `PC` advanced, which
moves it further if it is a skip, a transfer or `FX0A`, and else does not write it. -/
theorem programCounterLaws : Obligations.ProgramCounterLaws := by
  intro s t hrun h
  rcases step_cases h with ⟨e, he, -⟩ | ⟨-, hw, rfl⟩ | ⟨i, -, hw, hx⟩
  · simp [hrun] at he
  · exact ⟨fun _ => rfl, fun i hi => by simp [hw] at hi⟩
  refine ⟨fun hnone => by simp [hw] at hnone, fun j hj => ?_⟩
  obtain rfl : i = j := Option.some.inj (hw.symm.trans hj)
  refine ⟨fun c hc => ?_, ?_, ?_, ?_, ?_, ?_, fun hskip htrans hwait => ?_⟩
  · obtain ⟨htaken, hnot⟩ := exec_skip_pc ((skipCondition_advancePc i s).trans hc) hx
    exact ⟨fun h => (htaken h).trans (BitVec.add_assoc s.pc 2 2), hnot⟩
  · rintro nnn rfl
    cases hx
    rfl
  · rintro nnn rfl
    rcases exec2NNN_cases hx with ⟨hfull, rfl⟩ | ⟨hroom, rfl⟩
    · exact (if_pos hfull).symm
    · exact (if_neg hroom).symm
  · rintro nnn rfl
    cases hx
    exact zextByte_add_zextAddr_toNat _ nnn
  · rintro rfl
    rcases exec00EE_cases hx with ⟨hempty, rfl⟩ | ⟨a, rest, hpop, rfl⟩
    · rw [show s.stack = [] from hempty]
      rfl
    · rw [show s.stack = a :: rest from hpop]
      rfl
  · rintro x rfl
    exact execFX0A_pc hx
  · exact exec_writes hx .pc (not_writes_pc hskip htrans hwait)

end Sys2Proof.Machine
end

section
/-! PROOFS, the display (41_display.md). `00E0` (R141), `DXYN` once and twice (R140, R142 to R144), and the physical
view (R145, R276). -/

namespace Sys2Proof.Machine

variable {s t u : State} {x y : Reg} {n : Nat} {px : Column} {py : Row}

/-! ### What a sprite covers, and the pixels it toggles (R142, R143) -/

/-- A sprite covers the pixels its set bits select. -/
theorem spriteCovers_iff_spriteBits (s : State) (x0 y0 n : Nat) (px : Column) (py : Row) :
    spriteCovers s x0 y0 n px py ↔
      ∃ a ∈ spriteBits s.mem s.base n, px = wrapColumn (x0 + a.2) ∧ py = wrapRow (y0 + a.1) := by
  simp [spriteCovers, Prod.exists, mem_spriteBits, State.readMem, spriteBit, wrapColumn, wrapRow, Fin.ext_iff,
    and_assoc]

/-- The same sprite bytes cover the same pixels. -/
theorem spriteCovers_congr (hmem : ∀ k < n, u.readMem (u.base + k) = s.readMem (s.base + k)) (x0 y0 : Nat) :
    spriteCovers u x0 y0 n px py ↔ spriteCovers s x0 y0 n px py :=
  exists_congr fun r => and_congr_right fun hr => by rw [hmem r hr]

/-- The pixels `DXYN` covers in the state it runs in: its sprite at `(VX, VY)`. -/
def State.drawCovers (s : State) (x y : Reg) (n : Nat) (px : Column) (py : Row) : Prop :=
  spriteCovers s (s.readV x).toNat (s.readV y).toNat n px py

theorem State.drawSprite_pixel_of_covers (hn : n < 16) (hc : s.drawCovers x y n px py) :
    pixelOf (s.drawSprite x y n).fb px py = !s.pixel px py := by
  rw [State.drawCovers, spriteCovers_iff_spriteBits] at hc
  rw [State.drawSprite, (Drawing.sprite_spec _ _ _ _ _ n (by omega)).1, decide_eq_true hc, Bool.xor_true]
  rfl

theorem State.drawSprite_pixel_of_not_covers (hn : n < 16) (hc : ¬ s.drawCovers x y n px py) :
    pixelOf (s.drawSprite x y n).fb px py = s.pixel px py := by
  rw [State.drawCovers, spriteCovers_iff_spriteBits] at hc
  rw [State.drawSprite, (Drawing.sprite_spec _ _ _ _ _ n (by omega)).1, decide_eq_false hc, Bool.xor_false]
  rfl

/-- A draw hits exactly when a pixel it covers was set. -/
theorem State.drawSprite_hit (hn : n < 16) : (s.drawSprite x y n).hit = true ↔
    ∃ px py, s.drawCovers x y n px py ∧ s.pixel px py = true := by
  rw [State.drawSprite, (Drawing.sprite_spec _ _ _ _ _ n (by omega)).2]
  simp only [State.drawCovers, spriteCovers_iff_spriteBits, Bool.false_eq_true, false_or]
  constructor
  · rintro ⟨a, ha, hset⟩
    exact ⟨_, _, ⟨a, ha, rfl, rfl⟩, hset⟩
  · rintro ⟨_, _, ⟨a, ha, rfl, rfl⟩, hset⟩
    exact ⟨a, ha, hset⟩

/-! ### `DXYN` (R142 to R144) -/

theorem collisionFlag_eq_one (hit : Bool) : collisionFlag hit = 1 ↔ hit = true := by
  cases hit <;> decide

theorem collisionFlag_eq_zero (hit : Bool) : collisionFlag hit = 0 ↔ ¬ hit = true := by
  cases hit <;> decide

/-- The display after `DXYN` is the one drawn from the operands it started with. -/
theorem exec_opDXYN_pixel (h : exec (.opDXYN x y n) s = .next t) (px : Column) (py : Row) :
    t.pixel px py = pixelOf (s.drawSprite x y n).fb px py := by
  cases h
  rfl

/-- `VF` after `DXYN` is the collision flag, also when `X` or `Y` names `VF` (D6). -/
theorem exec_opDXYN_vf (h : exec (.opDXYN x y n) s = .next t) :
    t.readV vf = collisionFlag (s.drawSprite x y n).hit := by
  cases h
  simp

/-- `DXYN` writes no pixel it does not cover (R143). -/
theorem exec_opDXYN_writes (hn : n < 16) (h : exec (.opDXYN x y n) s = .next t) :
    changesOnly (fun e => e = .v vf ∨ e = .redraw ∨ ∃ px py, e = .pixel px py ∧ s.drawCovers x y n px py)
      s t := by
  intro e he
  by_cases hw : (Instr.opDXYN x y n).writes e
  · rcases hw with (⟨px, py, rfl⟩ | rfl) | rfl
    · have hc : ¬ s.drawCovers x y n px py := fun hc => he (.inr (.inr ⟨px, py, rfl, hc⟩))
      exact (exec_opDXYN_pixel h px py).trans (State.drawSprite_pixel_of_not_covers hn hc)
    · exact absurd (.inl rfl) he
    · exact absurd (.inr (.inl rfl)) he
  · exact exec_writes h e hw

/-- Settles O26: each pixel, `VF` and the frame of a draw, by the set of pixels it covers. -/
theorem drawTogglesCoveredPixels : Obligations.DrawTogglesCoveredPixels := by
  intro x y n s hn
  have h : exec (.opDXYN x y n) s = .next _ := rfl
  have hvf := exec_opDXYN_vf h
  refine ⟨decodeWord_encode (i := .opDXYN x y n) (decide_eq_true hn), _, h, fun px py hc => ?_,
    fun hset => ?_, fun hset => ?_, rfl, exec_opDXYN_writes hn h⟩
  · exact (exec_opDXYN_pixel h px py).trans (State.drawSprite_pixel_of_covers hn hc)
  · exact hvf.trans ((collisionFlag_eq_one _).2 ((State.drawSprite_hit hn).2 hset))
  · exact hvf.trans ((collisionFlag_eq_zero _).2 (mt (State.drawSprite_hit hn).1 hset))

/-- Settles O27: both draws cover the same pixels, so each of these is toggled twice and each other one never; and
the second draw hits exactly the covered pixels that the first one set. -/
theorem drawTwiceRestoresDisplay : Obligations.DrawTwiceRestoresDisplay := by
  intro x y n s t u r hn hs hpix hx hy hmem hu
  have hcov : ∀ px py, u.drawCovers x y n px py ↔ s.drawCovers x y n px py := fun px py => by
    rw [State.drawCovers, hx, hy]
    exact spriteCovers_congr hmem _ _
  have htoggled : ∀ px py, s.drawCovers x y n px py → u.pixel px py = !s.pixel px py := fun px py hc =>
    (hpix px py).trans ((exec_opDXYN_pixel hs px py).trans (State.drawSprite_pixel_of_covers hn hc))
  refine ⟨fun px py => ?_, ?_⟩
  · rw [exec_opDXYN_pixel hu]
    by_cases hc : s.drawCovers x y n px py
    · rw [State.drawSprite_pixel_of_covers hn ((hcov px py).2 hc), htoggled px py hc, Bool.not_not]
    · rw [State.drawSprite_pixel_of_not_covers hn (mt (hcov px py).1 hc), hpix, exec_opDXYN_pixel hs,
        State.drawSprite_pixel_of_not_covers hn hc]
  · rw [exec_opDXYN_vf hu, collisionFlag_eq_one, State.drawSprite_hit hn]
    refine exists_congr fun px => exists_congr fun py => ?_
    rw [hcov]
    exact and_congr_right fun hc => by rw [htoggled px py hc, Bool.not_eq_true']

/-! ### The physical view (R276) -/

/-- The block of an index wrapped at `k` blocks of `m` is the block wrapped at `k`. -/
theorem block_of_wrapped_index {d m : Nat} (hd : d < m) (a k : Nat) : (a * m + d) % (k * m) / m = a % k := by
  rw [Nat.mod_mul_left_div_self, Nat.mul_comm, Nat.mul_add_div (by omega), Nat.div_eq_of_lt hd, Nat.add_zero]

/-- Settles O58: a wrapped index is inside the view, and its block is the wrapped logical coordinate. -/
theorem physicalViewShowsBlocks : Obligations.PhysicalViewShowsBlocks := by
  intro s x y dx dy hdx hdy
  have hin : ∀ a k, 0 < k → a % (k * s.params.mag) < k * s.params.mag := fun a k hk =>
    Nat.mod_lt a (Nat.mul_pos hk (by omega))
  rw [State.physicalPixel, if_pos ⟨hin _ 64 (by decide), hin _ 32 (by decide)⟩, block_of_wrapped_index hdx,
    block_of_wrapped_index hdy]
  simp only [wrapColumn, wrapRow, Nat.mod_mod]

/-! ### `00E0` (R141) -/

/-- Settles O25: the word is `00E0`'s encoding, the display it sets is blank, and it writes pixels only. -/
theorem clearDisplayUnsetsEveryPixel : Obligations.ClearDisplayUnsetsEveryPixel := by
  intro s
  have h : exec .op00E0 s = .next (s.setFb Config.blankDisplay) := rfl
  exact ⟨decodeWord_encode (i := .op00E0) rfl, _, h, State.blankDisplay_pixel, exec_writes h⟩

end Sys2Proof.Machine
end

section
/-! PROOFS, control transfer (42_flow.md). `1NNN` and `BNNN` (R161, R163), `2NNN` and `00EE` (R160, R162, R262, R263),
the round trip of a call (R164), and a machine parked on a self-jump (R313). -/

namespace Sys2Proof.Machine

variable {s t : State}

/-! ### The jumps (R161, R163) -/

theorem zextAddr_toNat (nnn : BitVec 12) : (zextAddr nnn).toNat = nnn.toNat :=
  BitVec.toNat_setWidth_of_le (by decide)

/-- Settles O29: the word is `1NNN`'s encoding, and a 12-bit target is the same number in 16 bits. -/
theorem jumpSetsProgramCounter : Obligations.JumpSetsProgramCounter :=
  fun nnn s => ⟨decodeWord_encode (i := .op1NNN nnn) rfl, _, rfl, zextAddr_toNat nnn, changesOnly_setPc s _⟩

/-- Settles O31: the word is `BNNN`'s encoding, and the sum fits 16 bits. -/
theorem jumpAddsV0 : Obligations.JumpAddsV0 :=
  fun nnn s => ⟨decodeWord_encode (i := .opBNNN nnn) rfl, _, rfl, zextByte_add_zextAddr_toNat _ nnn,
    changesOnly_setPc s _⟩

/-! ### Call and return (R160, R162) -/

/-- A transfer through the stack writes the stack and `PC` only. -/
theorem changesOnly_setStack_setPc (s : State) (l : List Word) (a : Word) :
    changesOnly (fun e => e = .pc ∨ e = .stack) s ((s.setStack l).setPc a) :=
  changesOnly_mono (fun _ => Or.symm) (changesOnly_then (changesOnly_setStack s l) (changesOnly_setPc _ a))

/-- Settles O28: the word is `00EE`'s encoding; with an entry on the stack it pops, with none it latches the
error. -/
theorem returnPopsOrUnderflows : Obligations.ReturnPopsOrUnderflows :=
  ⟨rfl, fun s a rest h => ⟨_, exec00EE_of_cons h, rfl, rfl, changesOnly_setStack_setPc s rest a⟩,
    fun s h => ⟨_, exec00EE_of_empty h, rfl, changesOnly_setErr s _⟩⟩

/-- A push puts its address above the entries that were there (R27). -/
theorem stackEntry_top_of_push {a : Word} (h : t.stack = a :: s.stack) : t.stackEntry s.sp = some a := by
  simp [State.stackEntry, State.sp, h]

/-- Settles O30: below capacity the call pushes one entry above those that stay, at capacity it latches the
error. -/
theorem callPushesOrOverflows : Obligations.CallPushesOrOverflows := by
  refine fun nnn s => ⟨decodeWord_encode (i := .op2NNN nnn) rfl, fun hroom => ?_, fun hfull => ?_⟩
  · have hpush : ((s.setStack (s.pc :: s.stack)).setPc (zextAddr nnn)).stack = s.pc :: s.stack := rfl
    exact ⟨_, exec2NNN_of_room nnn hroom, zextAddr_toNat nnn, stackEntry_top_of_push hpush,
      fun j hj => stackEntry_of_push hpush hj, rfl, changesOnly_setStack_setPc s _ _⟩
  · exact ⟨_, exec2NNN_of_full nnn hfull, rfl, changesOnly_setErr s _⟩

/-! ### The round trip of a call (R164) -/

/-- A run that never holds fewer than `d` entries keeps the oldest `d`: each of its events does. -/
theorem runsAbove_keeps_stackEntry {d : Nat} {es : List Event} (h : runsAbove d es s t) (hd : d ≤ s.sp) :
    ∀ j < d, t.stackEntry j = s.stackEntry j := by
  induction es generalizing s with
  | nil =>
    obtain rfl : t = s := h
    exact fun _ _ => rfl
  | cons e es ih =>
    obtain ⟨hreset, u, hu, hdu, hrest⟩ := h
    exact fun j hj => (ih hrest hdu j hj).trans
      (eventsKeepOldestStackEntries e s u d hreset hu hd hdu j hj)

/-- Two stacks of one depth with the same entries are equal. -/
theorem stack_ext (hsp : t.sp = s.sp) (h : ∀ j < s.sp, t.stackEntry j = s.stackEntry j) : t.stack = s.stack := by
  refine List.reverse_injective (List.ext_getElem? fun j => ?_)
  by_cases hj : j < s.sp
  · exact h j hj
  · have hs : s.stack.length ≤ j := Nat.le_of_not_lt hj
    have ht : t.stack.length ≤ j := hsp.trans_le hs
    rw [List.getElem?_eq_none (by simpa using ht), List.getElem?_eq_none (by simpa using hs)]

/-- A run that never goes below the depth it starts from, and ends at it, ends with the same stack. -/
theorem runsAbove_same_stack {es : List Event} (h : runsAbove s.sp es s t) (hsp : t.sp = s.sp) :
    t.stack = s.stack :=
  stack_ext hsp (runsAbove_keeps_stackEntry h le_rfl)

/-- A call with room on the stack pushes the address of the instruction after it (R122, R162). -/
theorem step_call_stack {nnn : BitVec 12} (hrun : s.err = none) (hw : decodeWord s.fetchWord = some (.op2NNN nnn))
    (hroom : s.sp ≠ s.params.stackCapacity) (h : step s = .next t) : t.stack = (s.pc + 2) :: s.stack := by
  rw [step_matched hrun hw] at h
  rcases exec2NNN_cases h with ⟨hfull, -⟩ | ⟨-, rfl⟩
  · exact absurd hfull hroom
  · rfl

/-- A return takes the most recent entry off the stack into `PC` (R160). -/
theorem step_return {a : Word} {rest : List Word} (hrun : s.err = none)
    (hw : decodeWord s.fetchWord = some .op00EE) (hstack : s.stack = a :: rest) (h : step s = .next t) :
    t.pc = a ∧ t.stack = rest := by
  rw [step_matched hrun hw, show exec .op00EE s.advancePc = _ from exec00EE_of_cons hstack] at h
  cases h
  exact ⟨rfl, rfl⟩

/-- Settles O32: the run keeps every entry the call left, so the return finds the call's own entry on top and the
stack from before the call under it. -/
theorem callReturnRoundTrip : Obligations.CallReturnRoundTrip := by
  intro s t u r nnn es hrun hcall hroom ht hes hsp hrun' hret hr
  have hstack : u.stack = (s.pc + 2) :: s.stack :=
    (runsAbove_same_stack hes hsp).trans (step_call_stack hrun hcall hroom ht)
  exact step_return hrun' hret hstack hr

/-! ### Parked on a self-jump (R313) -/

/-- Setting `PC` to what it was undoes the advance (R122). -/
theorem State.advancePc_setPc (s : State) : s.advancePc.setPc s.pc = s := rfl

/-- Settles O53: the jump sets `PC` back to the address it was fetched from, so the step ends in the state it began
in, with no error, and so does every further one. -/
theorem selfJumpParks : Obligations.SelfJumpParks := by
  rintro s ⟨hrun, nnn, hw, htarget⟩
  have hjump : exec (.op1NNN nnn) s.advancePc = .next s := by
    calc exec (.op1NNN nnn) s.advancePc = .next (s.advancePc.setPc (zextAddr nnn)) := rfl
      _ = .next s := by rw [htarget, State.advancePc_setPc]
  have hok : resultAfter s = .ok := by simp [resultAfter, hrun]
  exact ⟨(stepResult_matched hrun hw hjump).trans (congrArg some hok),
    run_of_step_self (M := Sys2Proof.core) ((step_matched hrun hw).trans hjump)⟩

end Sys2Proof.Machine
end

section
/-! PROOFS, the conditional skips (43_skip.md). `3XNN`, `4XNN` (R180, R181), `5XY0`, `9XY0` (R182, R183). -/

namespace Sys2Proof

/-- A word of family 5 or 9 whose low nibble is not 0 is unmatched (R96, D9). -/
theorem decodeWord_eq_none_of_nField {w : Word} (hop : opField w = 5 ∨ opField w = 9) (hn : nField w ≠ 0) :
    decodeWord w = none := by
  rcases hop with hop | hop
  · rw [decodeWord, hop]
    exact if_neg hn
  · rw [decodeWord, hop]
    exact if_neg hn

namespace Machine

variable {s : State} {i : Instr}

/-- A skip whose condition is `c` completes, changes `PC` only, and moves it 2 further, modulo 65536, exactly when
`c` holds (R184, D5). -/
theorem exec_skip_next {c : Prop} [Decidable c] (hc : skipCondition i s = some c) :
    ∃ t, exec i s = .next t ∧ changesOnly (· = .pc) s t ∧
      t.pc.toNat = (if c then (s.pc.toNat + 2) % 65536 else s.pc.toNat) := by
  obtain ⟨b, -, hx⟩ := exec_skip hc
  obtain ⟨htaken, hnot⟩ := exec_skip_pc hc hx
  refine ⟨_, hx, changesOnly_skipIf s b, ?_⟩
  split
  · next h => exact congrArg BitVec.toNat (htaken h)
  · next h => exact congrArg BitVec.toNat (hnot h)

/-- A skip whose condition is that `c` fails. -/
theorem exec_skip_next_not {c : Prop} [Decidable c] (hc : skipCondition i s = some ¬ c) :
    ∃ t, exec i s = .next t ∧ changesOnly (· = .pc) s t ∧
      t.pc.toNat = (if c then s.pc.toNat else (s.pc.toNat + 2) % 65536) := by
  simpa only [ite_not] using exec_skip_next hc

/-- Settles O33: the words are the encodings of `3XNN` and `4XNN`, and each is the skip whose condition is that
`VX = NN`, or that it fails. -/
theorem immediateSkips : Obligations.ImmediateSkips :=
  fun x nn _ => ⟨decodeWord_encode (i := .op3XNN x nn) rfl, decodeWord_encode (i := .op4XNN x nn) rfl,
    exec_skip_next rfl, exec_skip_next_not rfl⟩

/-- Settles O34: the words are the encodings of `5XY0` and `9XY0`, another low nibble fails the one test of their
families, and each is the skip whose condition is that `VX = VY`, or that it fails. -/
theorem registerSkips : Obligations.RegisterSkips := by
  refine fun x y s => ⟨decodeWord_encode (i := .op5XY0 x y) rfl, decodeWord_encode (i := .op9XY0 x y) rfl,
    fun n hn => ?_, exec_skip_next rfl, exec_skip_next_not rfl⟩
  have hlow : ∀ op : BitVec 4, nField (op ++ nibble x ++ nibble y ++ n) ≠ 0 := fun op => by rwa [nField_XYN]
  exact ⟨decodeWord_eq_none_of_nField (.inl (opField_XYN ..)) (hlow _),
    decodeWord_eq_none_of_nField (.inr (opField_XYN ..)) (hlow _)⟩

end Machine

end Sys2Proof
end

section
/-! PROOFS, register loads and arithmetic (44_alu.md). The loads, `7XNN` and the bitwise operations (R190 to R195),
the operations with a flag (R196 to R198, R201) and `CXNN` (R199). -/

namespace Sys2Proof.Machine

variable {s : State} {x : Reg} {i : Instr}

/-! ### Operations that write one register -/

/-- A register written reads as the byte written (R21). -/
theorem State.writeV_readV_self (s : State) (x : Reg) (b : Byte) : (s.writeV x b).readV x = b := by simp

/-- An instruction whose whole effect is one register write: what the register holds, and the frame. -/
theorem exec_writeV {b : Byte} (h : exec i s = .next (s.writeV x b)) :
    ∃ t, exec i s = .next t ∧ t.readV x = b ∧ changesOnly (· = .v x) s t :=
  ⟨_, h, State.writeV_readV_self s x b, changesOnly_writeV s x b⟩

/-- Settles O35: the words are the encodings of `6XNN` and `8XY0`, and each is one register write. -/
theorem loadsSetRegister : Obligations.LoadsSetRegister :=
  fun x y nn _ => ⟨decodeWord_encode (i := .op6XNN x nn) rfl, decodeWord_encode (i := .op8XY0 x y) rfl,
    exec_writeV rfl, exec_writeV rfl⟩

/-- Settles O36: the word is `7XNN`'s encoding, and it writes the sum of two bytes, which is modulo 256. -/
theorem addImmediateWrapsWithoutFlag : Obligations.AddImmediateWrapsWithoutFlag := by
  refine fun x nn s => ⟨decodeWord_encode (i := .op7XNN x nn) rfl, ?_⟩
  obtain ⟨t, ht, hx, hframe⟩ := exec_writeV (i := .op7XNN x nn) (s := s) rfl
  exact ⟨t, ht, by rw [hx, BitVec.toNat_add], hframe⟩

/-- An instruction that writes `VX` with `r`, whose bit `k` is `bit k`. -/
theorem exec_writeV_bits {r : Byte} {bit : Nat → Bool} (h : exec i s = .next (s.writeV x r))
    (hr : ∀ k, r.getLsbD k = bit k) :
    ∃ t, exec i s = .next t ∧ changesOnly (· = .v x) s t ∧ ∀ k < 8, (t.readV x).getLsbD k = bit k := by
  obtain ⟨t, ht, hx, hframe⟩ := exec_writeV h
  exact ⟨t, ht, hframe, fun k _ => hx ▸ hr k⟩

/-- Settles O37: the words are the encodings of `8XY1`, `8XY2` and `8XY3`, and the word each writes is the library's
OR, AND or XOR. -/
theorem bitwiseOperationsBitByBit : Obligations.BitwiseOperationsBitByBit :=
  fun x y _ => ⟨decodeWord_encode (i := .op8XY1 x y) rfl, decodeWord_encode (i := .op8XY2 x y) rfl,
    decodeWord_encode (i := .op8XY3 x y) rfl, exec_writeV_bits rfl fun _ => BitVec.getLsbD_or,
    exec_writeV_bits rfl fun _ => BitVec.getLsbD_and, exec_writeV_bits rfl fun _ => BitVec.getLsbD_xor⟩

/-! ### The flags and results (R196 to R198, R200) -/

theorem carryFlag_eq (a b : Byte) : carryFlag a b = if a.toNat + b.toNat > 255 then 1 else 0 := by
  simp [carryFlag, flagByte]

theorem notBorrowFlag_eq (a b : Byte) : notBorrowFlag a b = if a.toNat < b.toNat then 0 else 1 := by
  by_cases h : a.toNat < b.toNat <;> simp [notBorrowFlag, flagByte, h]

theorem shiftOutFlag_toNat (b : Byte) : (shiftOutFlag b).toNat = b.toNat % 2 := by
  simp [shiftOutFlag, Nat.and_one_is_mod]

/-- A right shift by one halves (R198). -/
theorem ushiftRight_one_toNat (b : Byte) : (b >>> 1).toNat = b.toNat / 2 := by
  rw [BitVec.toNat_ushiftRight, Nat.shiftRight_eq_div_pow, Nat.pow_one]

/-- The difference of two bytes is the exact difference modulo 256, also when it is negative. -/
theorem sub_toNat_emod (a b : Byte) : ((a - b).toNat : Int) = (a.toNat - b.toNat : Int) % 256 := by
  rw [BitVec.toNat_sub]
  omega

/-! ### Operations that write a flag and then a result (R128, R201) -/

/-- An instruction that writes a flag and then its result: the result stands, the flag stands in `VF` unless `VF` is
the destination, and no other element changes. -/
theorem exec_flag_result {flag result : Byte} (h : exec i s = .next (s.writeFlagThenResult x flag result)) :
    ∃ t, exec i s = .next t ∧ t.readV x = result ∧ (x ≠ vf → t.readV vf = flag) ∧
      changesOnly (fun e => e = .v x ∨ e = .v vf) s t := by
  refine ⟨_, h, State.writeV_readV_self _ x result, fun hx => ?_,
    changesOnly_mono (fun _ => Or.symm) (changesOnly_writeFlagThenResult s x flag result)⟩
  rw [State.writeFlagThenResult, State.writeV_readV, if_neg hx.symm, State.writeV_readV_self]

/-- Settles O38: the word is `8XY4`'s encoding, and it writes the carry and then the sum. -/
theorem addRegistersSetsCarry : Obligations.AddRegistersSetsCarry := by
  refine fun x y s => ⟨decodeWord_encode (i := .op8XY4 x y) rfl, ?_⟩
  obtain ⟨t, ht, hx, hvf, hframe⟩ := exec_flag_result (i := .op8XY4 x y) (s := s) rfl
  exact ⟨t, ht, by rw [hx, BitVec.toNat_add], fun h => (hvf h).trans (carryFlag_eq _ _), hframe⟩

/-- Settles O39: the word is `8XY5`'s encoding, and it writes the not-borrow and then the difference. -/
theorem subtractRegistersSetsNotBorrow : Obligations.SubtractRegistersSetsNotBorrow := by
  refine fun x y s => ⟨decodeWord_encode (i := .op8XY5 x y) rfl, ?_⟩
  obtain ⟨t, ht, hx, hvf, hframe⟩ := exec_flag_result (i := .op8XY5 x y) (s := s) rfl
  exact ⟨t, ht, by rw [hx, sub_toNat_emod], fun h => (hvf h).trans (notBorrowFlag_eq _ _), hframe⟩

/-- Settles O40: the word is `8XY6`'s encoding, and it writes the bit shifted out of `VY` and then `VY` halved. -/
theorem shiftTakesItsSourceFromVY : Obligations.ShiftTakesItsSourceFromVY := by
  refine fun x y s => ⟨decodeWord_encode (i := .op8XY6 x y) rfl, ?_⟩
  obtain ⟨t, ht, hx, hvf, hframe⟩ := exec_flag_result (i := .op8XY6 x y) (s := s) rfl
  exact ⟨t, ht, by rw [hx, ushiftRight_one_toNat], fun h => by rw [hvf h, shiftOutFlag_toNat], hframe⟩

/-! ### `VF` as an operand (R201) -/

/-- The columns `X = 0xF`: the result stands in `VF`, the flag is lost, and only `VF` changes. -/
theorem exec_flag_lost {flag result : Byte} (h : exec i s = .next (s.writeFlagThenResult vf flag result)) :
    ∃ t, exec i s = .next t ∧ t.readV vf = result ∧ changesOnly (· = .v vf) s t := by
  obtain ⟨t, ht, hvf, -, hframe⟩ := exec_flag_result h
  exact ⟨t, ht, hvf, changesOnly_mono (fun _ => (or_self _).mp) hframe⟩

/-- The column `X ≠ 0xF`, `Y = 0xF`: the result in `VX` and the flag in `VF`. -/
theorem exec_flag_kept {flag result : Byte} (hx : x ≠ vf)
    (h : exec i s = .next (s.writeFlagThenResult x flag result)) :
    ∃ t, exec i s = .next t ∧ t.readV x = result ∧ t.readV vf = flag := by
  obtain ⟨t, ht, hres, hvf, -⟩ := exec_flag_result h
  exact ⟨t, ht, hres, hvf hx⟩

/-- Settles O41: the cells of R201 by columns, each the flag and result of its instruction. -/
theorem flagRegisterAsOperand : Obligations.FlagRegisterAsOperand := by
  refine fun x s hx => ⟨exec_flag_lost rfl, exec_flag_lost rfl, ?_, ?_, ?_, ?_, ?_, ?_, ?_⟩
  · obtain ⟨t, ht, hvf, hframe⟩ := exec_flag_lost (i := .op8XY6 vf x) (s := s) rfl
    exact ⟨t, ht, by rw [hvf, ushiftRight_one_toNat], hframe⟩
  · obtain ⟨t, ht, hres, hvf⟩ := exec_flag_kept (i := .op8XY4 x vf) (s := s) hx rfl
    exact ⟨t, ht, hres, hvf.trans (carryFlag_eq _ _)⟩
  · obtain ⟨t, ht, hres, hvf⟩ := exec_flag_kept (i := .op8XY5 x vf) (s := s) hx rfl
    exact ⟨t, ht, hres, hvf.trans (notBorrowFlag_eq _ _)⟩
  · obtain ⟨t, ht, hres, hvf⟩ := exec_flag_kept (i := .op8XY6 x vf) (s := s) hx rfl
    exact ⟨t, ht, by rw [hres, ushiftRight_one_toNat], by rw [hvf, shiftOutFlag_toNat]⟩
  · obtain ⟨t, ht, hvf, -⟩ := exec_flag_lost (i := .op8XY4 vf vf) (s := s) rfl
    exact ⟨t, ht, by rw [hvf, BitVec.toNat_add, Nat.two_mul]⟩
  · obtain ⟨t, ht, hvf, -⟩ := exec_flag_lost (i := .op8XY5 vf vf) (s := s) rfl
    exact ⟨t, ht, hvf.trans (BitVec.sub_self _)⟩
  · obtain ⟨t, ht, hvf, -⟩ := exec_flag_lost (i := .op8XY6 vf vf) (s := s) rfl
    exact ⟨t, ht, by rw [hvf, ushiftRight_one_toNat]⟩

/-! ### The random byte (R199) -/

/-- Settles O42: the word is `CXNN`'s encoding; it takes the state's byte and writes it masked, and the event of a
step (O59) advances `PC` and writes its own byte masked. -/
theorem randomByteIsMasked : Obligations.RandomByteIsMasked := by
  refine fun x nn s => ⟨decodeWord_encode (i := .opCXNN x nn) rfl, ?_, fun hrun hw rnd => ?_⟩
  · exact ⟨_, rfl, State.writeV_readV_self .., changesOnly_mono (fun _ => Or.symm)
      (changesOnly_then (changesOnly_takeRnd s) (changesOnly_writeV _ x _))⟩
  · exact ⟨_, (stepEventIsStep rnd s).2 x nn hrun hw, State.writeV_readV_self .., changesOnly_mono (fun _ => Or.symm)
      (changesOnly_then (changesOnly_advancePc s) (changesOnly_writeV _ x _))⟩

end Sys2Proof.Machine
end

section
/-! PROOFS, the index register and memory (45_index_memory.md). `ANNN`, `FX1E`, `FX29` (R220 to R222), `FX33` (R223),
`FX55` and `FX65` (R224, R225), and the round trip of the last two (R226). -/

namespace Sys2Proof.Machine

variable {s t : State} {x k : Reg}

/-! ### `ANNN`, `FX1E`, `FX29` (R220 to R222) -/

theorem zextByte_toNat (b : Byte) : (zextByte b).toNat = b.toNat :=
  BitVec.toNat_setWidth_of_le (by decide)

theorem add_zextByte_toNat (a : Word) (b : Byte) : (a + zextByte b).toNat = (a.toNat + b.toNat) % 65536 := by
  rw [BitVec.toNat_add, zextByte_toNat]

/-- Five times a byte fits 16 bits (R222). -/
theorem zextByte_mul_five_toNat (b : Byte) : (zextByte b * 5).toNat = b.toNat * 5 := by
  have hfits : b.toNat * 5 < 2 ^ 16 := by omega
  rw [BitVec.toNat_mul, zextByte_toNat]
  exact Nat.mod_eq_of_lt hfits

/-- Settles O43: the words are the encodings of `ANNN`, `FX1E` and `FX29`, and each is one write of `I`. -/
theorem indexRegisterInstructions : Obligations.IndexRegisterInstructions :=
  fun x nnn s => ⟨decodeWord_encode (i := .opANNN nnn) rfl, decodeWord_encode (i := .opFX1E x) rfl,
    decodeWord_encode (i := .opFX29 x) rfl, ⟨_, rfl, zextAddr_toNat nnn, changesOnly_setI s _⟩,
    ⟨_, rfl, add_zextByte_toNat s.i _, changesOnly_setI s _⟩,
    ⟨_, rfl, zextByte_mul_five_toNat _, changesOnly_setI s _⟩⟩

/-! ### Reads and stores through an effective address (R61, R66) -/

theorem State.readMem_ea (s : State) (a : Nat) : s.readMem (ea a) = s.readMem a :=
  Memory.read_ea (ea_ea a)

/-- The bytes of a store, at most a memory's worth, are read back from `a, a + 1, ..`, wrapped or not. -/
theorem State.storeBytes_readMem_stored (s : State) (a : Nat) {bs : List Byte} {j : Nat} (hj : j < bs.length)
    (hlen : bs.length ≤ Config.memSize) : (s.storeBytes a bs).readMem (a + j) = bs[j] :=
  Memory.read_writeBytes_at hj hlen

/-! ### `FX33` (R223) -/

/-- The digit of weight `10 ^ (2 - j)` is stored at `I + j`. -/
theorem exec_opFX33_readMem (h : exec (.opFX33 x) s = .next t) {j : Nat} (hj : j < 3) :
    (t.readMem (ea (s.base + j))).toNat = (s.readV x).toNat / 10 ^ (2 - j) % 10 := by
  cases h
  have hlt : j < (decimalDigits (s.readV x)).length := hj
  rw [State.readMem_ea, State.storeBytes_readMem_stored s s.base hlt (by simp [decimalDigits, Config.memSize]),
    decimalDigits_toNat]

/-- Settles O44: the word is `FX33`'s encoding, and it stores three digits and nothing else; the first needs no
modulus, since a byte has three digits at most. -/
theorem storeDecimalDigits : Obligations.StoreDecimalDigits := by
  intro x s
  have h : exec (.opFX33 x) s = .next _ := rfl
  have hhundreds : (s.readV x).toNat / 100 < 10 := by omega
  refine ⟨decodeWord_encode (i := .opFX33 x) rfl, _, h, ?_, ?_, ?_,
    changesOnly_storeBytes s s.base (decimalDigits (s.readV x))⟩
  · exact (exec_opFX33_readMem h (j := 0) (by decide)).trans (Nat.mod_eq_of_lt hhundreds)
  · exact exec_opFX33_readMem h (j := 1) (by decide)
  · simpa using exec_opFX33_readMem h (j := 2) (by decide)

/-! ### `FX55` and `FX65` (R224, R225) -/

/-- `I` moved past the bytes, modulo 65536 (D5). -/
theorem State.bumpI_i_toNat (s : State) (x : Reg) : (s.bumpI x).i.toNat = (s.i.toNat + x.val + 1) % 65536 := by
  rw [State.bumpI_eq, State.setI_i, BitVec.toNat_add, BitVec.toNat_ofNat]
  omega

/-- `FX55` stores `Vk` at `I + k`. -/
theorem exec_opFX55_readMem (h : exec (.opFX55 x) s = .next t) (hk : k ≤ x) :
    t.readMem (s.base + k.val) = s.readV k := by
  cases h
  have hlen : (s.regsUpTo x).length = x.val + 1 := s.regsUpTo_length x
  have hlt : k.val < (s.regsUpTo x).length := by rw [hlen]; exact Nat.lt_succ_of_le hk
  have hle : (s.regsUpTo x).length ≤ Config.memSize := by rw [hlen]; exact le_trans x.isLt (by decide)
  exact (State.storeBytes_readMem_stored s s.base hlt hle).trans (s.regsUpTo_get x k hlt)

/-- `FX55` changes `I` and the `X + 1` bytes from `I` on. -/
theorem exec_opFX55_changesOnly (h : exec (.opFX55 x) s = .next t) :
    changesOnly (fun e => e = .i ∨ e.storedAt s.base (x.val + 1)) s t := by
  cases h
  rw [← s.regsUpTo_length x]
  exact changesOnly_mono (fun _ => Or.symm)
    (changesOnly_then (changesOnly_storeBytes s s.base _) (changesOnly_setI _ _))

/-- Settles O45: the word is `FX55`'s encoding; it stores the registers and then moves `I`. -/
theorem storeRegisters : Obligations.StoreRegisters := by
  intro x s
  have h : exec (.opFX55 x) s = .next _ := rfl
  exact ⟨decodeWord_encode (i := .opFX55 x) rfl, _, h,
    fun k hk => (State.readMem_ea _ _).trans (exec_opFX55_readMem h hk), State.bumpI_i_toNat _ x,
    exec_opFX55_changesOnly h⟩

/-- `FX65` loads `Vk` from `I + k`. -/
theorem exec_opFX65_readV (h : exec (.opFX65 x) s = .next t) (hk : k ≤ x) :
    t.readV k = s.readMem (s.base + k.val) := by
  cases h
  exact (s.regsFromMem_get x s.base k).trans (if_pos hk)

/-- Settles O46: the word is `FX65`'s encoding; it loads the registers and then moves `I`. -/
theorem loadRegisters : Obligations.LoadRegisters := by
  intro x s
  have h : exec (.opFX65 x) s = .next _ := rfl
  exact ⟨decodeWord_encode (i := .opFX65 x) rfl, _, h,
    fun k hk => (exec_opFX65_readV h hk).trans (State.readMem_ea s _).symm, State.bumpI_i_toNat _ x,
    changesOnly_mono (fun _ => Or.symm) (exec_writes h)⟩

/-- Settles O47: the load reads the addresses of the store, and these still hold what was stored. -/
theorem storeLoadRoundTrip : Obligations.StoreLoadRoundTrip := by
  intro x s t u r hstore hbase hkept hload k hk
  calc r.readV k = u.readMem (u.base + k.val) := exec_opFX65_readV hload hk
    _ = u.readMem (s.base + k.val) := Memory.read_ea (ea_add_congr hbase k.val)
    _ = t.readMem (s.base + k.val) := hkept k.val hk
    _ = s.readV k := exec_opFX55_readMem hstore hk

end Sys2Proof.Machine
end

section
/-! PROOFS, the keypad and the timers (46_keypad_timers.md). `FX0A` (R243) and the wait at it (R309), the key skips
(R240, R241, R246), and `FX07`, `FX15`, `FX18` (R242, R244, R245). -/

namespace Sys2Proof.Machine

variable {s : State} {x : Reg} {k : Key}

/-! ### `FX0A` (R243) -/

/-- The scan answers a pressed key above which none is pressed: it takes that key when it meets it, and every key it
meets afterwards is higher. -/
theorem State.lastPressed_eq_some (hk : s.key k = true) (habove : ∀ j, k < j → s.key j = false) :
    s.lastPressed = some k := by
  obtain ⟨below, above, hsplit⟩ := List.append_of_mem (List.mem_finRange k)
  have hsorted : (below ++ k :: above).Pairwise (· < ·) := hsplit ▸ List.pairwise_lt_finRange 16
  obtain ⟨-, hfrom, -⟩ := List.pairwise_append.mp hsorted
  have hlt : ∀ j ∈ above, k < j := fun _ hj => List.rel_of_pairwise_cons hfrom hj
  rw [State.lastPressed, hsplit, List.foldl_append, List.foldl_cons, if_pos hk]
  refine List.foldlRecOn (motive := (· = some k)) above _ rfl fun found hfound j hj => ?_
  simpa [habove j (hlt j hj)] using hfound

/-- Every key number fits the byte of a register. -/
theorem keyByte_toNat (k : Key) : (keyByte k).toNat = k.val :=
  Nat.mod_eq_of_lt (by omega)

/-- Going back 2 and adding 2, both modulo 65536, is the address itself (D5). -/
theorem State.rewindPc_pc_toNat (s : State) : (s.rewindPc.pc.toNat + 2) % 65536 = s.pc.toNat := by
  have hback : s.rewindPc.pc + 2 = s.pc := BitVec.sub_add_cancel s.pc 2
  exact (BitVec.toNat_add s.rewindPc.pc 2).symm.trans (congrArg BitVec.toNat hback)

/-- Settles O51: the word is `FX0A`'s encoding; the scan for the highest pressed key answers that key, which is one
register write, or none, which moves `PC` back. -/
theorem keyWaitTakesHighestKey : Obligations.KeyWaitTakesHighestKey := by
  refine fun x s => ⟨decodeWord_encode (i := .opFX0A x) rfl, fun k hk habove => ?_, fun hnone => ?_⟩
  · obtain ⟨t, ht, hx, hframe⟩ :=
      exec_writeV (i := .opFX0A x) (execFX0A_of_pressed x (State.lastPressed_eq_some hk habove))
    exact ⟨t, ht, by rw [hx, keyByte_toNat], hframe⟩
  · have hscan : s.lastPressed = none := State.lastPressed_eq_none.mpr (by simpa using hnone)
    exact ⟨_, execFX0A_of_none x hscan, State.rewindPc_pc_toNat s, changesOnly_setPc s _⟩

/-! ### The wait at `FX0A` (R309) -/

/-- A step of a machine that waits for a key undoes its own advance of `PC`. -/
theorem step_of_waitingForKey (h : s.waitingForKey) : step s = .next s := by
  obtain ⟨hrun, ⟨x, hw⟩, hnone⟩ := h
  have hscan : s.advancePc.lastPressed = none := State.lastPressed_eq_none.mpr (by simpa using hnone)
  calc step s = execFX0A x s.advancePc := step_matched hrun hw
    _ = .next s.advancePc.rewindPc := execFX0A_of_none x hscan
    _ = .next s := by rw [State.rewindPc_advancePc]

/-- Settles O52: a waiting step leaves the state as it is, so every further one does; a pressed key changes neither
the error nor the word fetched, and lets `FX0A` pass. -/
theorem keyWaitRepeatsUntilKeyPressed : Obligations.KeyWaitRepeatsUntilKeyPressed := by
  intro s h
  refine ⟨run_of_step_self (M := Sys2Proof.core) (step_of_waitingForKey h), fun k => ?_⟩
  obtain ⟨hrun, ⟨x, hw⟩, -⟩ := h
  obtain ⟨t, ht⟩ := step_completes (s.pressKey k true)
  have hstep : step (s.pressKey k true) = execFX0A x (s.pressKey k true).advancePc :=
    step_matched (s := s.pressKey k true) hrun hw
  have hpressed : ∃ j, (s.pressKey k true).key j = true := ⟨k, by simp [State.pressKey]⟩
  exact ⟨t, ht, (execFX0A_pc (hstep ▸ ht)).trans (if_pos hpressed)⟩

/-! ### The key skips (R240, R241) -/

/-- The key a register selects is its value modulo 16 (R246, D8). -/
theorem keyIndex_eq {b : Byte} (h : k.val = b.toNat % 16) : keyIndex b = k :=
  Fin.ext h.symm

/-- Settles O49: the words are the encodings of `EX9E` and `EXA1`, and each is the skip whose condition is that the
selected key is pressed, or that it is not. -/
theorem keySkips : Obligations.KeySkips := by
  intro x s k hk
  obtain rfl := keyIndex_eq hk
  exact ⟨decodeWord_encode (i := .opEX9E x) rfl, decodeWord_encode (i := .opEXA1 x) rfl, exec_skip_next rfl,
    exec_skip_next_not (by simp [skipCondition])⟩

/-! ### The timers (R242, R244, R245) -/

/-- The sound signal is on while the sound timer is not 0 (R273, D16). -/
theorem State.tone_eq_true : s.tone = true ↔ s.st ≠ 0 := by
  simp [State.tone, Nat.pos_iff_ne_zero, BitVec.toNat_eq]

/-- Settles O50: the words are the encodings of `FX07`, `FX15` and `FX18`, and each is one write, of a register or of
a timer; the signal follows the sound timer. -/
theorem timerInstructions : Obligations.TimerInstructions :=
  fun x s => ⟨decodeWord_encode (i := .opFX07 x) rfl, decodeWord_encode (i := .opFX15 x) rfl,
    decodeWord_encode (i := .opFX18 x) rfl, exec_writeV rfl, ⟨_, rfl, rfl, changesOnly_setDt s _⟩,
    ⟨_, rfl, rfl, State.tone_eq_true, changesOnly_setSt s _⟩⟩

end Sys2Proof.Machine
end

section
/-! PROOFS, errors and the host's events (60_exceptions.md). Which step raises which error (R260 to R267), and the
events `Tick` (R270), `SetKey` (R275) and `AckRedraw` (R277). -/

namespace Sys2Proof.Machine

variable {s t : State}

/-! ### The errors (R260, R265, R267) -/

/-- What an instruction run with no error latched leaves in the latch: each fatal error has one instruction and one
depth of the stack that raise it, and nothing else raises anything (R262, R263, R265). -/
theorem exec_err_cases {i : Instr} (hrun : s.err = none) (h : exec i s = .next t) :
    (t.err = some .stackUnderflow ∧ i = .op00EE ∧ s.sp = 0) ∨
    (t.err = some .stackOverflow ∧ (∃ nnn, i = .op2NNN nnn) ∧ s.sp = s.params.stackCapacity) ∨
    (t.err = none ∧ ¬ (i = .op00EE ∧ s.sp = 0) ∧
      ¬ ((∃ nnn, i = .op2NNN nnn) ∧ s.sp = s.params.stackCapacity)) := by
  by_cases hi : i.writes .err
  · rcases Instr.writes_err.1 hi with rfl | ⟨nnn, rfl⟩
    · rcases exec00EE_cases h with ⟨hempty, rfl⟩ | ⟨a, rest, hpop, rfl⟩
      · exact .inl ⟨rfl, rfl, by simp [State.sp, hempty]⟩
      · exact .inr (.inr ⟨hrun, by simp [State.sp, hpop], by simp⟩)
    · rcases exec2NNN_cases h with ⟨hfull, rfl⟩ | ⟨hroom, rfl⟩
      · exact .inr (.inl ⟨rfl, ⟨nnn, rfl⟩, hfull⟩)
      · exact .inr (.inr ⟨hrun, by simp, fun hc => hroom hc.2⟩)
  · have herr : t.err = s.err := exec_writes h .err hi
    rw [Instr.writes_err, not_or] at hi
    exact .inr (.inr ⟨herr.trans hrun, fun hc => hi.1 hc.1, fun hc => hi.2 hc.1⟩)

/-- Settles O12: an unmatched word is its own error and no other; a matched one has the result of the error its
instruction leaves latched, if any. -/
theorem errorsRaisedExactly : Obligations.ErrorsRaisedExactly := by
  intro s hrun
  cases hw : decodeWord s.fetchWord with
  | none => simp [stepResult_unmatched hrun hw, eq_comm]
  | some i =>
    obtain ⟨t, hx⟩ := exec_completes i s.advancePc
    rw [stepResult_matched hrun hw hx]
    rcases exec_err_cases (s := s.advancePc) hrun hx with
      ⟨herr, rfl, hempty⟩ | ⟨herr, ⟨nnn, rfl⟩, hfull⟩ | ⟨herr, hneither⟩
    · simpa [resultAfter, herr] using hempty
    · simpa [resultAfter, herr] using hfull
    · simpa [resultAfter, herr] using hneither

/-! ### The tick (R270) -/

/-- Subtraction of naturals stops at 0 as the timer does. -/
theorem countDown_toNat (b : Byte) : (countDown b).toNat = b.toNat - 1 := by
  unfold countDown
  split <;> bv_omega

/-- Settles O54: each timer counts down, and the frame is the event's. -/
theorem tickCountsDownToZero : Obligations.TickCountsDownToZero :=
  fun s => ⟨s.tick, rfl, countDown_toNat s.dt, countDown_toNat s.st, applyEvent_writes (e := .tick) rfl⟩

/-! ### The keys and the redraw flag (R275, R277) -/

theorem State.pressKey_key_self (s : State) (k : Key) (b : Bool) : (s.pressKey k b).key k = b :=
  (State.writeKey_key s k k b).trans (if_pos rfl)

/-- Settles O55: each event is one write, and the frame is the event's. -/
theorem keyAndRedrawEvents : Obligations.KeyAndRedrawEvents :=
  fun s k b => ⟨⟨_, rfl, State.pressKey_key_self s k b, applyEvent_writes (e := .setKey k b) rfl⟩,
    ⟨_, rfl, rfl, applyEvent_writes (e := .ackRedraw) rfl⟩⟩

end Sys2Proof.Machine
end

section
/-! PROOFS, reset and hazards (70_reset_and_hazards.md). What memory holds after a reset (R303, R304). -/

namespace Sys2Proof.Machine

/-- Bytes written inside the address space do not wrap, so an address below or above them is left alone (R61, R63). -/
theorem Memory.read_writeBytes_outside {m : Memory} {a a' : Nat} {bs : List Byte} (ha' : a' < Config.memSize)
    (hfit : a + bs.length ≤ Config.memSize) (hout : a' < a ∨ a + bs.length ≤ a') :
    (m.writeBytes a bs).read a' = m.read a' := by
  refine Memory.read_writeBytes_other fun k hk => ?_
  have hak : a + k < Config.memSize := by omega
  rw [ea, ea, Nat.mod_eq_of_lt ha', Nat.mod_eq_of_lt hak]
  omega

/-! ### The layers of memory after a reset (R303, R304) -/

/-- Memory as `MEM_INIT` alone gives it (D11). -/
def initMemory (p : Params) : Memory := p.memInit.foldl (fun m c => m.write c.1 c.2) ⟨[]⟩

theorem resetMemory_eq (p : Params) (program : List Byte) :
    resetMemory p program = ((initMemory p).writeBytes 0 p.font.toList).writeBytes Config.entry
      (program.take Config.maxProgram) := rfl

/-- The part of a program that is loaded ends where the program does, or where memory does (R303). -/
theorem entry_add_length_take (program : List Byte) :
    Config.entry + (program.take Config.maxProgram).length =
      min Config.memSize (Config.entry + program.length) := by
  rw [List.length_take, ← Nat.add_min_add_left]
  rfl

section
variable (p : Params) (program : List Byte) {a k : Nat}

/-- A byte of the program that is not clipped is the last one written at its address (R303). -/
theorem resetMemory_read_program (h : k < program.length) (hclip : k < Config.maxProgram) :
    (resetMemory p program).read (Config.entry + k) = program[k] := by
  have hk : k < (program.take Config.maxProgram).length := by simp [h, hclip]
  have hend := entry_add_length_take program
  rw [resetMemory_eq, Memory.read_writeBytes_at hk (by omega), List.getElem_take]

/-- Loading the program leaves the rest of memory as the font over `MEM_INIT` left it (R303). -/
theorem resetMemory_read_outside_program (ha : a < Config.memSize)
    (hout : a < Config.entry ∨ Config.entry + program.length ≤ a) :
    (resetMemory p program).read a = ((initMemory p).writeBytes 0 p.font.toList).read a := by
  have hend := entry_add_length_take program
  exact Memory.read_writeBytes_outside ha (by omega) (by omega)

/-- The font lies wholly below the program, so no byte of it is overwritten (R304). -/
theorem resetMemory_read_font (h : k < 80) : (resetMemory p program).read k = p.font[k] := by
  have hk : k < p.font.toList.length := by simpa using h
  have hstored := Memory.read_writeBytes_at (m := initMemory p) (a := 0) hk (by simp [Config.memSize])
  have hbelow : k < Config.entry := h.trans (by decide)
  rw [Nat.zero_add, Vector.getElem_toList] at hstored
  exact (resetMemory_read_outside_program p program (hbelow.trans (by decide)) (.inl hbelow)).trans hstored

/-- Past the font and outside the program, memory is what `MEM_INIT` gives (R304, D11). -/
theorem resetMemory_read_init (hfont : 80 ≤ a) (ha : a < Config.memSize)
    (hout : a < Config.entry ∨ Config.entry + program.length ≤ a) :
    (resetMemory p program).read a = (initMemory p).read a := by
  rw [resetMemory_read_outside_program p program ha hout]
  exact Memory.read_writeBytes_outside ha (by simp [Config.memSize]) (by simp [hfont])

end

/-- Settles O56: the program is written last and the font before it, each inside memory and apart from the other;
an address that neither covers keeps its byte of `MEM_INIT`. -/
theorem resetLoadsProgram : Obligations.ResetLoadsProgram :=
  fun s program => ⟨s.resetWith program, rfl, fun _ => resetMemory_read_program s.params program,
    fun _ => resetMemory_read_font s.params program, fun _ => resetMemory_read_init s.params program⟩

end Sys2Proof.Machine
end
